-- ==== Sys2Proof/Word.lean ====
section
/-! DEFINITION. Word: the two bit vectors of the hardware, a data byte (R7: 8 bits) and the control word (R60: 3 bits). -/

namespace Sys2Proof

/-- An accumulator, operand or result value: 8 bits, unsigned (R7, R22, R23). -/
abbrev Byte := BitVec 8

/-- The control word `ctrl[2:0]` (R60). -/
abbrev Ctrl := BitVec 3

end Sys2Proof
end

