-- ==== Sys2Proof/Syntax.lean ====
section
/-! DEFINITION. Syntax: one constructor per row of spec/opcode_table.json. Each carries the row's one field, `d`
(ctrl[0], the decimal-mode bit); `a`, `b` and `c_in` stand beside the control word and are not part of it (R60). -/

namespace Sys2Proof

/-- The four operations of the core (R62, R181–R184). -/
inductive Instr where
  /-- `ADC_6502`, control words `00d` (R181). -/
  | adc6502 (d : Bool)
  /-- `SBC_6502`, control words `01d` (R182). -/
  | sbc6502 (d : Bool)
  /-- `ADC_65C02`, control words `10d` (R183). -/
  | adc65C02 (d : Bool)
  /-- `SBC_65C02`, control words `11d` (R184). -/
  | sbc65C02 (d : Bool)
  deriving DecidableEq, Repr

end Sys2Proof
end

