-- ==== Sys2Proof/WellFormed.lean ====
section
/-! DEFINITION. WellFormed: which instructions and which bytes are legal. R63: no control word is reserved or illegal. -/

namespace Sys2Proof

/-- Every instruction is legal (R63: "All eight control words are defined"), so this check has no ill-formed term. -/
def Instr.wellFormed : Instr → Bool
  | .adc6502 _ => true
  | .sbc6502 _ => true
  | .adc65C02 _ => true
  | .sbc65C02 _ => true

/-- A byte that carries a control word in its bits 2..0 has its bits 7..3 zero: the word is three bits wide (R60, R64).
DESIGN CHOICE (log entry 8): the spec stores control words nowhere, so how a byte carries one is the model's. -/
def ctrlByteWellFormed (w : Byte) : Bool :=
  decide (w.toNat < 8)

end Sys2Proof
end

