-- ==== Sys2Proof/Decode.lean ====
section
/-! DEFINITION. Decode: the decoder of the control word (R60–R64), total; the same over bytes, rejecting by name; the
encoder, written from the encodings of spec/opcode_table.json; the opcode table as rows. -/

namespace Sys2Proof

/-! ### The control word -/

/-- The control word made of its three fields, `ctrl[2]` = `sel_65c02`, `ctrl[1]` = `sel_sbc`, `ctrl[0]` = `d` (R60). -/
def ctrlWord (sel65c02 selSbc d : Bool) : Ctrl :=
  BitVec.ofBool sel65c02 ++ BitVec.ofBool selSbc ++ BitVec.ofBool d

/-- The decoder of the control word: total, no word is reserved (R62, R63). -/
def decodeCtrl (w : Ctrl) : Instr :=
  match w.getLsbD 2, w.getLsbD 1 with
  | false, false => .adc6502 (w.getLsbD 0)
  | false, true => .sbc6502 (w.getLsbD 0)
  | true, false => .adc65C02 (w.getLsbD 0)
  | true, true => .sbc65C02 (w.getLsbD 0)

/-! ### Bytes -/

/-- Why bytes are no control word. -/
inductive DecodeError where
  /-- there is no byte to read -/
  | noControlWord
  /-- a bit above the three bits of a control word is set (log entry 8) -/
  | notAControlWord (w : Byte)
  deriving DecidableEq, Repr

/-- What decoding bytes gives: an instruction with the bytes after it, or a rejection by name. -/
inductive DecodeResult where
  | ok (i : Instr) (rest : List Byte)
  | rejected (e : DecodeError)
  deriving DecidableEq, Repr

/-- The decoder over bytes, one byte a control word (log entry 8), total. -/
def decode : List Byte → DecodeResult
  | [] => .rejected .noControlWord
  | w :: rest => if ctrlByteWellFormed w then .ok (decodeCtrl (w.setWidth 3)) rest else .rejected (.notAControlWord w)

/-- A whole list of bytes as instructions, or nothing where one byte is rejected. -/
def decodeAll : List Byte → Option (List Instr)
  | [] => some []
  | w :: rest =>
    match decode [w], decodeAll rest with
    | .ok i _, some is => some (i :: is)
    | _, _ => none

/-! ### The encoder -/

/-- The control word of an instruction, from the table's encodings `00d`, `01d`, `10d`, `11d`. -/
def encodeCtrl : Instr → Ctrl
  | .adc6502 false => 0b000#3
  | .adc6502 true => 0b001#3
  | .sbc6502 false => 0b010#3
  | .sbc6502 true => 0b011#3
  | .adc65C02 false => 0b100#3
  | .adc65C02 true => 0b101#3
  | .sbc65C02 false => 0b110#3
  | .sbc65C02 true => 0b111#3

/-- The words of an instruction: one byte whose bits 2..0 are its control word. -/
def encode (i : Instr) : List Byte :=
  [(encodeCtrl i).setWidth 8]

/-- The bytes of a list of instructions. -/
def encodeAll (is : List Instr) : List Byte :=
  is.flatMap encode

/-! ### Fields of an instruction -/

/-- The field `sel_65c02` (R60). -/
def Instr.sel65c02 : Instr → Bool
  | .adc6502 _ => false
  | .sbc6502 _ => false
  | .adc65C02 _ => true
  | .sbc65C02 _ => true

/-- The field `sel_sbc` (R60). -/
def Instr.selSbc : Instr → Bool
  | .adc6502 _ => false
  | .sbc6502 _ => true
  | .adc65C02 _ => false
  | .sbc65C02 _ => true

/-- The field `d` (R60). -/
def Instr.decimal : Instr → Bool
  | .adc6502 d => d
  | .sbc6502 d => d
  | .adc65C02 d => d
  | .sbc65C02 d => d

/-! ### The opcode table -/

/-- A row of spec/opcode_table.json: the fixed bits `mask` of the control word and their values `pattern`. -/
structure OpcodeRow where
  mnemonic : String
  pattern : Ctrl
  mask : Ctrl
  deriving DecidableEq, Repr

/-- The row of each instruction, as the table has it. -/
def opcodeRow : Instr → OpcodeRow
  | .adc6502 _ => { mnemonic := "ADC_6502", pattern := 0b000#3, mask := 0b110#3 }
  | .sbc6502 _ => { mnemonic := "SBC_6502", pattern := 0b010#3, mask := 0b110#3 }
  | .adc65C02 _ => { mnemonic := "ADC_65C02", pattern := 0b100#3, mask := 0b110#3 }
  | .sbc65C02 _ => { mnemonic := "SBC_65C02", pattern := 0b110#3, mask := 0b110#3 }

/-- The table, in its order. -/
def opcodeTable : List OpcodeRow :=
  [opcodeRow (.adc6502 false), opcodeRow (.sbc6502 false), opcodeRow (.adc65C02 false), opcodeRow (.sbc65C02 false)]

/-- A control word fits a row when it has the row's values in the row's fixed bits. -/
def OpcodeRow.fits (r : OpcodeRow) (w : Ctrl) : Bool :=
  w &&& r.mask == r.pattern

/-! ### The host's view of a table word -/

/-- `k` bytes of a number, the lowest first. -/
def bytesOfNat : Nat → Nat → List Byte
  | 0, _ => []
  | k + 1, w => BitVec.ofNat 8 w :: bytesOfNat k (w / 256)

/-- The instruction the decoder reads from the word `w` of `nbits` bits, bit 0 its least significant bit; the bits
above `nbits` are zero, and an instruction is one byte long. -/
def decodeTableWord (nbits w : Nat) : Option Instr :=
  match decode (bytesOfNat (max 1 ((nbits + 7) / 8)) (w % 2 ^ nbits)) with
  | .ok i _ => some i
  | .rejected _ => none

end Sys2Proof
end

