-- ==== Sys2Proof/Config.lean ====
section
/-! DEFINITION. Config: what is fixed for one machine (spec/00_scope.md R7, R8) and the reset values the spec leaves
to the consumer (spec/92_eei_decisions.md D13, parameter `ConsumerResetFlags`). The spec leaves no output of the core
open (spec/93_implementation_defined.md), so there is no free value here. -/

namespace Sys2Proof

/-- The two processor variants (R7, R8). -/
inductive Variant where
  | v6502
  | v65C02
  deriving DecidableEq, Repr

/-- The two operations (R7). -/
inductive Operation where
  | adc
  | sbc
  deriving DecidableEq, Repr

/-- The parameter `ConsumerResetFlags` (D13, I4): what the consumer's accumulator and flags hold after its reset. -/
structure ConsumerResetFlags where
  a : BitVec 8
  n : Bool
  v : Bool
  z : Bool
  c : Bool
  d : Bool
  deriving DecidableEq, Repr

/-- The values this model takes for that parameter. DESIGN CHOICE (log entry 2), unsafe: R221 leaves every one of
them UNSPECIFIED, and statements about evaluations are made for every value of every field. -/
def Config.consumerReset : ConsumerResetFlags :=
  { a := 0, n := false, v := false, z := false, c := false, d := false }

end Sys2Proof
end

