-- ==== Sys2Proof/Machine/State.lean ====
section
/-! DEFINITION. State: the interface of one evaluation (R22, R23), the consumer's program steps (spec/92_eei_decisions.md
D12, spec/95_test_vectors.md 3.1) and the consumer's state (R30 and 95_test_vectors.md 3.1). The core itself holds no
state (R20). -/

namespace Sys2Proof.Machine

/-! ### One evaluation of the core -/

/-- The inputs of one evaluation (R22). -/
structure Input where
  a : Byte
  b : Byte
  cIn : Bool
  d : Bool
  selSbc : Bool
  sel65c02 : Bool
  deriving DecidableEq, Repr

/-- The four flags an evaluation produces (R27). -/
structure Flags where
  n : Bool
  v : Bool
  z : Bool
  c : Bool
  deriving DecidableEq, Repr

/-- The outputs of one evaluation (R23). -/
structure Output where
  r : Byte
  n : Bool
  v : Bool
  z : Bool
  cOut : Bool
  deriving DecidableEq, Repr

/-! ### The consumer's program -/

/-- The consumer's five flags (R27, R30). -/
inductive FlagName where
  | n
  | v
  | z
  | c
  | d
  deriving DecidableEq, Repr

/-- The scratch bytes (95_test_vectors.md 3.1). -/
inductive ScratchName where
  | t0
  | t1
  deriving DecidableEq, Repr

/-- A step of the consumer that does not use the core (95_test_vectors.md 3.1). -/
inductive ConsumerAction where
  /-- `A := $hh` -/
  | setA (x : Byte)
  /-- `B := $hh` -/
  | setB (x : Byte)
  /-- `C := 0`, `C := 1` -/
  | setC (x : Bool)
  /-- `D := 0`, `D := 1` -/
  | setD (x : Bool)
  /-- `tN := A` -/
  | saveA (t : ScratchName)
  /-- `if F == v goto k` (log entry 7: any flag of the consumer) -/
  | gotoIf (f : FlagName) (x : Bool) (k : Nat)
  deriving DecidableEq, Repr

/-- A step of a program (95_test_vectors.md 3.1): a consumer's action, or one evaluation of the core, whose operation
fixes the select bits `ctrl[2:1]`; `ctrl[0]` is the consumer's D flag at that moment. -/
inductive ProgStep where
  | consumer (act : ConsumerAction)
  | evaluate (sel65c02 selSbc : Bool)
  deriving DecidableEq, Repr

/-! ### State -/

/-- The consumer's state, all that the spec gives (R30, 95_test_vectors.md 3.1). -/
structure State where
  /-- the accumulator A (R30) -/
  a : Byte
  /-- the operand byte B (R30; 95_test_vectors.md 3.1) -/
  b : Byte
  /-- flag N (R27) -/
  n : Bool
  /-- flag V (R27) -/
  v : Bool
  /-- flag Z (R27) -/
  z : Bool
  /-- flag C, read as `c_in` and written from `c_out` (R27) -/
  c : Bool
  /-- flag D, read as `d` (R27) -/
  d : Bool
  /-- scratch byte t0 (95_test_vectors.md 3.1) -/
  t0 : Byte
  /-- scratch byte t1 (95_test_vectors.md 3.1) -/
  t1 : Byte
  /-- the program, a numbered list of steps (95_test_vectors.md 3.1) -/
  program : List ProgStep
  /-- the number of the next step; steps are numbered from 1 (95_test_vectors.md 3.1) -/
  pos : Nat
  deriving DecidableEq, Repr

/-- The consumer after its reset, for given values of the parameter `ConsumerResetFlags` (D13). The other bytes are
zero, DESIGN CHOICE (log entry 3); no program is loaded and the next step is step 1 (log entry 4). -/
def State.resetWith (p : ConsumerResetFlags) : State :=
  { a := p.a, b := 0, n := p.n, v := p.v, z := p.z, c := p.c, d := p.d, t0 := 0, t1 := 0, program := [], pos := 1 }

/-- The machine right after reset. The spec gives no reset value for any of the consumer's registers and flags (R221):
the values are DESIGN CHOICE (log entries 2, 3 and 4). -/
def State.reset : State :=
  State.resetWith Config.consumerReset

/-! ### How a step can stop -/

/-- Empty: the core raises no exception and has no fault outcome (R186, R200), and the consumer's steps have none
(log entry 16). -/
inductive Fault where
  deriving DecidableEq, Repr

/-- Why a step could be refused. -/
inductive Refusal where
  /-- raised by `exec` alone, for an instruction without a meaning; every instruction has one, so no step answers
  with it. Safe: a claim about a refused instruction cannot be proved. -/
  | notModelled (mnemonic : String)
  deriving DecidableEq, Repr

end Sys2Proof.Machine
end

