-- ==== Sys2Proof/Machine/Ops.lean ====
section
/-! DEFINITION. Ops: the named operations over the consumer's registers. There is no memory (R40) and no exception is
ever taken or returned from (R200, R204, R205), so no operation over memory and none for exceptions exists. -/

namespace Sys2Proof.Machine

/-- The value of a flag. -/
def State.flag (s : State) : FlagName → Bool
  | .n => s.n
  | .v => s.v
  | .z => s.z
  | .c => s.c
  | .d => s.d

/-- The inputs of an evaluation, read from the consumer before it: A, the operand byte and C, with the given control
word (R185, R224). -/
def State.readInput (s : State) (sel65c02 selSbc d : Bool) : Input :=
  { a := s.a, b := s.b, cIn := s.c, d := d, selSbc := selSbc, sel65c02 := sel65c02 }

/-- The write back after an evaluation: A, N, V, Z and C are overwritten and "No other state is touched" (R185). -/
def State.writeBack (s : State) (o : Output) : State :=
  { s with a := o.r, n := o.n, v := o.v, z := o.z, c := o.cOut }

/-- Moving to the next step of the program (95_test_vectors.md 3.1: steps run in order). -/
def State.advance (s : State) : State := { s with pos := s.pos + 1 }

/-- Continuing at step `k`. -/
def State.jump (s : State) (k : Nat) : State := { s with pos := k }

/-- `A := $hh`. -/
def State.setA (s : State) (x : Byte) : State := { s with a := x }

/-- `B := $hh`. -/
def State.setB (s : State) (x : Byte) : State := { s with b := x }

/-- `C := 0`, `C := 1`. -/
def State.setC (s : State) (x : Bool) : State := { s with c := x }

/-- `D := 0`, `D := 1`. -/
def State.setD (s : State) (x : Bool) : State := { s with d := x }

/-- `tN := A`. -/
def State.saveA (s : State) : ScratchName → State
  | .t0 => { s with t0 := s.a }
  | .t1 => { s with t1 := s.a }

end Sys2Proof.Machine
end

