-- ==== Sys2Proof/Machine/Consumer.lean ====
section
/-! DEFINITION. Consumer: how the consumer fetches a step of its program, what each of its own steps does
(spec/95_test_vectors.md 3.1), and how it makes the control word of an evaluation (R61, R185). -/

namespace Sys2Proof.Machine

/-- The step numbered `pos`, steps counted from 1; nothing where no step has that number (95_test_vectors.md 3.1). -/
def State.fetch (s : State) : Option ProgStep :=
  match s.pos with
  | 0 => none
  | k + 1 => s.program[k]?

/-- What a step of the consumer does after `pos` has moved on to the next step (95_test_vectors.md 3.1). -/
def ConsumerAction.run (act : ConsumerAction) (s : State) : State :=
  match act with
  | .setA x => s.setA x
  | .setB x => s.setB x
  | .setC x => s.setC x
  | .setD x => s.setD x
  | .saveA t => s.saveA t
  | .gotoIf f x k => if s.flag f = x then s.jump k else s

/-- The instruction an evaluation step issues: its select bits with the consumer's D flag as `ctrl[0]` (R60, R185). -/
def State.issue (s : State) (sel65c02 selSbc : Bool) : Instr :=
  decodeCtrl (ctrlWord sel65c02 selSbc s.d)

/-- The program with the step at `pos` replaced by `p`; where no step has the number `pos`, `p` is put at the end of
the program and is the next step. -/
def State.placeStep (s : State) (p : ProgStep) : State :=
  { s with
    program := s.program.take (s.pos - 1) ++ p :: s.program.drop s.pos
    pos := min (s.pos - 1) s.program.length + 1 }

/-- The state in which the next step issues exactly `i`: an evaluation with `i`'s select bits is the next step of the
program, and the consumer's D flag is `i`'s bit `d` (R60, R185). -/
def State.placeInstr (s : State) (i : Instr) : State :=
  (s.placeStep (.evaluate i.sel65c02 i.selSbc)).setD i.decimal

end Sys2Proof.Machine
end

