-- ==== Sys2Proof/Machine/Operands.lean ====
section
/-! DEFINITION. Operands: the fields through which every engine reads its inputs (R65), and the arithmetic primitives of
the spec's notation (R9–R12). Arithmetic is on mathematical integers; `%` on `Int` by a positive number is the Euclidean
remainder (R10). -/

namespace Sys2Proof.Machine

/-! ### Notation -/

/-- The unsigned value of a byte, 0..255 (R10, `zext`). -/
def zext (x : Byte) : Int := (x.toNat : Int)

/-- The two's-complement value of a byte, −128..127 (R104, the signed view; R151, R152, `sext`). -/
def sext (x : Byte) : Int := x.toInt

/-- A boolean in arithmetic, 1 for true and 0 for false (R10). -/
def bitVal (c : Bool) : Int := if c then 1 else 0

/-- Bit `k` of an integer, the two's-complement bit where it is negative (R11). -/
def intBit (k : Nat) (x : Int) : Bool := decide (2 ^ k ≤ x % 2 ^ (k + 1))

/-- `x mod 256` as a byte (R10). -/
def mod256 (x : Int) : Byte := BitVec.ofInt 8 x

/-- `hi << 4 | lo` for nibbles 0..15, the byte 16·hi + lo (R12). -/
def joinNibbles (hi lo : Int) : Byte := BitVec.ofInt 8 (16 * hi + lo)

/-! ### Operand fields -/

/-- `x[3:0]`, 0..15 (R9, R65: `a_lo`, `b_lo`). -/
def loNibble (x : Byte) : Int := ((x.extractLsb' 0 4).toNat : Int)

/-- `x[7:4]`, 0..15 (R9, R65: `a_hi`, `b_hi`). -/
def hiNibble (x : Byte) : Int := ((x.extractLsb' 4 4).toNat : Int)

/-- `x[7]`, the sign bit (R9, R65: `sa`, `sb`). -/
def signBit (x : Byte) : Bool := x.getLsbD 7

/-- `borrow`, `bi`: `1 − Cin` (R65, R101, R124, R127). -/
def borrowIn (cIn : Bool) : Int := 1 - bitVal cIn

/-! ### The decimal view of a byte (R131, R134, glossary) -/

/-- A valid BCD byte: each nibble is in 0..9 (glossary). -/
def validBcd (x : Byte) : Bool := decide (loNibble x ≤ 9) && decide (hiNibble x ≤ 9)

/-- `dec(x) = 10·x[7:4] + x[3:0]` (R131). -/
def dec (x : Byte) : Int := 10 * hiNibble x + loNibble x

end Sys2Proof.Machine
end

