-- ==== Sys2Proof/Machine/BcdCorrection.lean ====
section
/-! DEFINITION. bcd_correction_engine: the decimal datapaths (spec/41_bcd_correction_engine.md). Signal names are those of
R14; every one is a function of the evaluation's inputs. -/

namespace Sys2Proof.Machine

/-! ### Decimal addition, both variants (R120–R123) -/

/-- `lo0`, 0..31 (R120). -/
def addLo0 (cIn : Bool) (a b : Byte) : Int := loNibble a + loNibble b + bitVal cIn

/-- `clo` (R120). -/
def addClo (cIn : Bool) (a b : Byte) : Bool := decide (9 < addLo0 cIn a b)

/-- `lo`: corrected once by −10, then mod 16 (R120). -/
def addLo (cIn : Bool) (a b : Byte) : Int :=
  if addClo cIn a b then (addLo0 cIn a b - 10) % 16 else addLo0 cIn a b

/-- `hi0`, the pre-correction high nibble, with the low nibble's carry in it, 0..31 (R14, R121). -/
def addHi0 (cIn : Bool) (a b : Byte) : Int := hiNibble a + hiNibble b + bitVal (addClo cIn a b)

/-- `chi` (R121). -/
def addChi (cIn : Bool) (a b : Byte) : Bool := decide (9 < addHi0 cIn a b)

/-- `hi` (R121). -/
def addHi (cIn : Bool) (a b : Byte) : Int :=
  if addChi cIn a b then (addHi0 cIn a b - 10) % 16 else addHi0 cIn a b

/-- `r_dec_add` (R122, R123). -/
def rDecAdd (cIn : Bool) (a b : Byte) : Byte := joinNibbles (addHi cIn a b) (addLo cIn a b)

/-- `c_dec_add` (R122, R123). -/
def cDecAdd (cIn : Bool) (a b : Byte) : Bool := addChi cIn a b

/-! ### Decimal subtraction: the raw nibbles, the same in both variants (R124, R125, R127, R128) -/

/-- `lo0`, −16..15 (R124, R127). -/
def subLo0 (cIn : Bool) (a b : Byte) : Int := loNibble a - loNibble b - borrowIn cIn

/-- `blo` (R124, R127). -/
def subBlo (cIn : Bool) (a b : Byte) : Bool := decide (subLo0 cIn a b < 0)

/-- `hi0`, −16..15 (R125, R128). -/
def subHi0 (cIn : Bool) (a b : Byte) : Int := hiNibble a - hiNibble b - bitVal (subBlo cIn a b)

/-- `bhi` (R125, R128). -/
def subBhi (cIn : Bool) (a b : Byte) : Bool := decide (subHi0 cIn a b < 0)

/-! ### Decimal subtraction, 6502 (R124–R126) -/

/-- `lo` (R124). -/
def sub6502Lo (cIn : Bool) (a b : Byte) : Int :=
  if subBlo cIn a b then (subLo0 cIn a b + 10) % 16 else subLo0 cIn a b

/-- `hi` (R125). -/
def sub6502Hi (cIn : Bool) (a b : Byte) : Int :=
  if subBhi cIn a b then (subHi0 cIn a b + 10) % 16 else subHi0 cIn a b

/-- `r_dec_sub_6502` (R126). -/
def rDecSub6502 (cIn : Bool) (a b : Byte) : Byte := joinNibbles (sub6502Hi cIn a b) (sub6502Lo cIn a b)

/-- `c_dec_sub_6502` (R126). -/
def cDecSub6502 (cIn : Bool) (a b : Byte) : Bool := !subBhi cIn a b

/-! ### Decimal subtraction, 65C02 (R127–R129) -/

/-- `lo1`, corrected but unmasked, −6..15 (R127). -/
def sub65C02Lo1 (cIn : Bool) (a b : Byte) : Int :=
  if subBlo cIn a b then subLo0 cIn a b + 10 else subLo0 cIn a b

/-- `lsn`, "low_still_negative": checked after the +10 correction and before masking (R127). -/
def sub65C02Lsn (cIn : Bool) (a b : Byte) : Bool := decide (sub65C02Lo1 cIn a b < 0)

/-- `lo` (R127). -/
def sub65C02Lo (cIn : Bool) (a b : Byte) : Int := sub65C02Lo1 cIn a b % 16

/-- `hb3`, bit 3 of the pre-correction high nibble (R128, R11). -/
def sub65C02Hb3 (cIn : Bool) (a b : Byte) : Bool := intBit 3 (subHi0 cIn a b)

/-- `hi1`, corrected but unmasked, −6..15 (R128). -/
def sub65C02Hi1 (cIn : Bool) (a b : Byte) : Int :=
  if subBhi cIn a b then subHi0 cIn a b + 10 else subHi0 cIn a b

/-- `hi`, with the still-negative quirk: one less where `lsn` is set (R129). -/
def sub65C02Hi (cIn : Bool) (a b : Byte) : Int :=
  (sub65C02Hi1 cIn a b - bitVal (sub65C02Lsn cIn a b)) % 16

/-- `r_dec_sub_65c02` (R129). -/
def rDecSub65C02 (cIn : Bool) (a b : Byte) : Byte := joinNibbles (sub65C02Hi cIn a b) (sub65C02Lo cIn a b)

/-- `c_dec_sub_65c02` (R129): the quirk does not change it. -/
def cDecSub65C02 (cIn : Bool) (a b : Byte) : Bool := !subBhi cIn a b

end Sys2Proof.Machine
end

