-- ==== Sys2Proof/Machine/BinaryAdder.lean ====
section
/-! DEFINITION. binary_adder_subtractor: the datapath of the binary-mode engine (spec/40_binary_adder_subtractor.md),
shared by both variants (R103). Signal names are those of R14. -/

namespace Sys2Proof.Machine

/-- `sum`, 0..511 (R100). -/
def binSum (cIn : Bool) (a b : Byte) : Int := zext a + zext b + bitVal cIn

/-- `r_bin_add` (R100). -/
def rBinAdd (cIn : Bool) (a b : Byte) : Byte := mod256 (binSum cIn a b)

/-- `c_bin_add` (R100). -/
def cBinAdd (cIn : Bool) (a b : Byte) : Bool := decide (0x100 ≤ binSum cIn a b)

/-- `diff`, −256..255 (R101). -/
def binDiff (cIn : Bool) (a b : Byte) : Int := zext a - zext b - borrowIn cIn

/-- `r_bin_sub` (R101). -/
def rBinSub (cIn : Bool) (a b : Byte) : Byte := mod256 (binDiff cIn a b)

/-- `c_bin_sub`: A ≥ B + borrow, with no wraparound in the comparison (R101). -/
def cBinSub (cIn : Bool) (a b : Byte) : Bool := decide (zext b + borrowIn cIn ≤ zext a)

end Sys2Proof.Machine
end

