-- ==== Sys2Proof/Machine/Flags.lean ====
section
/-! DEFINITION. flag_computation_unit: N, V, Z and C of every path (spec/42_flag_computation_unit.md). Each flag reads
exactly the signal its rule names, and no stored flag but `c_in` (R150). -/

namespace Sys2Proof.Machine

/-- The V term of addition over a reference bit (R151, R153, R156). -/
def overflowAdd (sa sb ref : Bool) : Bool := (sa ^^ ref) && (sb ^^ ref)

/-- The V term of subtraction over a reference bit: the operand's sign complemented (R152, R154, R157; conflict C4). -/
def overflowSub (sa sb ref : Bool) : Bool := (sa ^^ ref) && ((!sb) ^^ ref)

/-- Binary ADC, both variants (R151). -/
def flagsBinAdd (cIn : Bool) (a b : Byte) : Flags :=
  { n := signBit (rBinAdd cIn a b)
    v := overflowAdd (signBit a) (signBit b) (signBit (rBinAdd cIn a b))
    z := rBinAdd cIn a b == 0
    c := cBinAdd cIn a b }

/-- Binary SBC, both variants (R152). -/
def flagsBinSub (cIn : Bool) (a b : Byte) : Flags :=
  { n := signBit (rBinSub cIn a b)
    v := overflowSub (signBit a) (signBit b) (signBit (rBinSub cIn a b))
    z := rBinSub cIn a b == 0
    c := cBinSub cIn a b }

/-- 6502 decimal ADC (R153): N and V from the pre-correction high nibble, Z from the binary sum. -/
def flagsDecAdd6502 (cIn : Bool) (a b : Byte) : Flags :=
  { n := intBit 3 (addHi0 cIn a b)
    v := overflowAdd (signBit a) (signBit b) (intBit 3 (addHi0 cIn a b))
    z := rBinAdd cIn a b == 0
    c := cDecAdd cIn a b }

/-- 6502 decimal SBC (R154): N, V and Z from the binary difference, C from the decimal one. -/
def flagsDecSub6502 (cIn : Bool) (a b : Byte) : Flags :=
  { n := signBit (rBinSub cIn a b)
    v := overflowSub (signBit a) (signBit b) (signBit (rBinSub cIn a b))
    z := rBinSub cIn a b == 0
    c := cDecSub6502 cIn a b }

/-- 65C02 decimal ADC (R156): N and Z from the corrected result, V from the pre-correction high nibble (conflict C3). -/
def flagsDecAdd65C02 (cIn : Bool) (a b : Byte) : Flags :=
  { n := signBit (rDecAdd cIn a b)
    v := overflowAdd (signBit a) (signBit b) (intBit 3 (addHi0 cIn a b))
    z := rDecAdd cIn a b == 0
    c := cDecAdd cIn a b }

/-- 65C02 decimal SBC (R157): N and Z from the corrected result, V from `hb3`. -/
def flagsDecSub65C02 (cIn : Bool) (a b : Byte) : Flags :=
  { n := signBit (rDecSub65C02 cIn a b)
    v := overflowSub (signBit a) (signBit b) (sub65C02Hb3 cIn a b)
    z := rDecSub65C02 cIn a b == 0
    c := cDecSub65C02 cIn a b }

end Sys2Proof.Machine
end

