-- ==== Sys2Proof/Machine/Engines.lean ====
section
/-! DEFINITION. Engines: the six engine contracts `(carry_in, acc, operand) -> Result` (R67), each a datapath with its
flags. The engines do not feed each other's results (R3); the decimal flags read binary signals as R153 and R154 say. -/

namespace Sys2Proof.Machine

/-- A result with its flags, as the outputs of an evaluation (R23). -/
def outputOf (r : Byte) (f : Flags) : Output :=
  { r := r, n := f.n, v := f.v, z := f.z, cOut := f.c }

/-- `add_with_carry` (R100, R151). -/
def addWithCarry (cIn : Bool) (a b : Byte) : Output :=
  outputOf (rBinAdd cIn a b) (flagsBinAdd cIn a b)

/-- `sub_with_carry` (R101, R152). -/
def subWithCarry (cIn : Bool) (a b : Byte) : Output :=
  outputOf (rBinSub cIn a b) (flagsBinSub cIn a b)

/-- `add_decimal_6502` (R120–R122, R153). -/
def addDecimal6502 (cIn : Bool) (a b : Byte) : Output :=
  outputOf (rDecAdd cIn a b) (flagsDecAdd6502 cIn a b)

/-- `sub_decimal_6502` (R124–R126, R154). -/
def subDecimal6502 (cIn : Bool) (a b : Byte) : Output :=
  outputOf (rDecSub6502 cIn a b) (flagsDecSub6502 cIn a b)

/-- `add_decimal_65c02` (R120–R123, R156). -/
def addDecimal65C02 (cIn : Bool) (a b : Byte) : Output :=
  outputOf (rDecAdd cIn a b) (flagsDecAdd65C02 cIn a b)

/-- `sub_decimal_65c02` (R127–R129, R157). -/
def subDecimal65C02 (cIn : Bool) (a b : Byte) : Output :=
  outputOf (rDecSub65C02 cIn a b) (flagsDecSub65C02 cIn a b)

end Sys2Proof.Machine
end

