-- ==== Sys2Proof/Machine/Arithmetic.lean ====
section
/-! DEFINITION. Arithmetic: the four operations and their dispatch on the decimal-mode flag (R180–R184), the core as one
total function (R21, R186), and the meaning of each instruction under the consumer contract (R185). -/

namespace Sys2Proof.Machine

/-! ### The four operations -/

/-- ADC_6502 (R181). -/
def adc6502 (d cIn : Bool) (a b : Byte) : Output :=
  if d then addDecimal6502 cIn a b else addWithCarry cIn a b

/-- SBC_6502 (R182). -/
def sbc6502 (d cIn : Bool) (a b : Byte) : Output :=
  if d then subDecimal6502 cIn a b else subWithCarry cIn a b

/-- ADC_65C02 (R183). -/
def adc65C02 (d cIn : Bool) (a b : Byte) : Output :=
  if d then addDecimal65C02 cIn a b else addWithCarry cIn a b

/-- SBC_65C02 (R184). -/
def sbc65C02 (d cIn : Bool) (a b : Byte) : Output :=
  if d then subDecimal65C02 cIn a b else subWithCarry cIn a b

/-! ### The core -/

/-- The core: a total function from the inputs of an evaluation to its outputs (R6, R21, R186). -/
def alu (x : Input) : Output :=
  match x.sel65c02, x.selSbc with
  | false, false => adc6502 x.d x.cIn x.a x.b
  | false, true => sbc6502 x.d x.cIn x.a x.b
  | true, false => adc65C02 x.d x.cIn x.a x.b
  | true, true => sbc65C02 x.d x.cIn x.a x.b

/-- The core of one CPU, with the variant bound as a parameter (R8). -/
def aluOfVariant : Variant → Operation → Bool → Bool → Byte → Byte → Output
  | .v6502, .adc => adc6502
  | .v6502, .sbc => sbc6502
  | .v65C02, .adc => adc65C02
  | .v65C02, .sbc => sbc65C02

/-! ### The meanings: read, evaluate, write back (R185) -/

/-- ADC_6502 (R181, R185). -/
def execAdc6502 (d : Bool) (s : State) : Host.Outcome State Fault Refusal :=
  .next (s.writeBack (adc6502 d s.c s.a s.b))

/-- SBC_6502 (R182, R185). -/
def execSbc6502 (d : Bool) (s : State) : Host.Outcome State Fault Refusal :=
  .next (s.writeBack (sbc6502 d s.c s.a s.b))

/-- ADC_65C02 (R183, R185). -/
def execAdc65C02 (d : Bool) (s : State) : Host.Outcome State Fault Refusal :=
  .next (s.writeBack (adc65C02 d s.c s.a s.b))

/-- SBC_65C02 (R184, R185). -/
def execSbc65C02 (d : Bool) (s : State) : Host.Outcome State Fault Refusal :=
  .next (s.writeBack (sbc65C02 d s.c s.a s.b))

end Sys2Proof.Machine
end

