-- ==== Sys2Proof/Machine/Dispatch.lean ====
section
/-! DEFINITION. Dispatch: one arm per constructor of Instr. -/

namespace Sys2Proof.Machine

-- R181–R184, each under the consumer contract R185
def exec (i : Instr) (s : State) : Host.Outcome State Fault Refusal :=
  match i with
  | .adc6502 d => Sys2Proof.Machine.execAdc6502 d s
  | .sbc6502 d => Sys2Proof.Machine.execSbc6502 d s
  | .adc65C02 d => Sys2Proof.Machine.execAdc65C02 d s
  | .sbc65C02 d => Sys2Proof.Machine.execSbc65C02 d s

end Sys2Proof.Machine
end

