-- ==== Sys2Proof/Machine/Step.lean ====
section
/-! DEFINITION. Step: one step of the consumer's program (spec/95_test_vectors.md 3.1), and the host's way to place one
control word there. -/

namespace Sys2Proof.Machine

/-- One step: the step at `pos` runs, after `pos` has moved on. Where no step has that number the program has halted
and nothing changes any more (log entries 5 and 6). -/
def step (s : State) : Host.Outcome State Fault Refusal :=
  match s.fetch with
  | none => .next s
  | some (.consumer act) => .next (act.run s.advance)
  | some (.evaluate sel65c02 selSbc) => exec (s.issue sel65c02 selSbc) s.advance

/-- The state in which the next step runs the instruction that the table word `w` decodes to; unchanged where `w` is no
control word (log entry 17). -/
def State.withFetchWord (s : State) (nbits w : Nat) : State :=
  match decodeTableWord nbits w with
  | some i => s.placeInstr i
  | none => s

end Sys2Proof.Machine
end

