-- ==== Sys2Proof/Machine/Assembler.lean ====
section
/-! DEFINITION. Assembler: the text of one evaluation (R67, spec/92_eei_decisions.md D6). Single spaces, upper-case hexadecimal
digits when written and either case when read are DESIGN CHOICE (log entry 14). -/

namespace Sys2Proof.Machine

/-! ### Writing -/

/-- The digit of a value 0..15. -/
def hexDigit (k : Nat) : Char :=
  if k < 10 then Char.ofNat (48 + k) else Char.ofNat (55 + k)

/-- `<0|1>`. -/
def bitText (x : Bool) : List Char := if x then ['1'] else ['0']

/-- `$<hh>`. -/
def byteText (x : Byte) : List Char := ['$', hexDigit (x.toNat / 16), hexDigit (x.toNat % 16)]

/-- `MNEMONIC` (R67), which fixes `ctrl[2:1]`. -/
def mnemonicText : Bool → Bool → List Char
  | false, false => "ADC_6502".toList
  | false, true => "SBC_6502".toList
  | true, false => "ADC_65C02".toList
  | true, true => "SBC_65C02".toList

/-- The left-hand side of R67's line: the operation and its inputs. -/
def inputText (x : Input) : List Char :=
  mnemonicText x.sel65c02 x.selSbc ++ " d=".toList ++ bitText x.d ++ " c=".toList ++ bitText x.cIn
    ++ " a=".toList ++ byteText x.a ++ " b=".toList ++ byteText x.b

/-- The right-hand side: the outputs. -/
def outputText (o : Output) : List Char :=
  "r=".toList ++ byteText o.r ++ " N=".toList ++ bitText o.n ++ " V=".toList ++ bitText o.v
    ++ " Z=".toList ++ bitText o.z ++ " C=".toList ++ bitText o.cOut

/-- The whole line of one evaluation (R67). -/
def evaluationText (x : Input) : List Char := inputText x ++ " -> ".toList ++ outputText (alu x)

/-! ### Reading -/

/-- The text after `lit`, where the text begins with it. -/
def takeLit : List Char → List Char → Option (List Char)
  | [], cs => some cs
  | _ :: _, [] => none
  | l :: ls, c :: cs => if l = c then takeLit ls cs else none

/-- The value of a hexadecimal digit, either case. -/
def hexValue (c : Char) : Option Nat :=
  if 48 ≤ c.toNat ∧ c.toNat ≤ 57 then some (c.toNat - 48)
  else if 65 ≤ c.toNat ∧ c.toNat ≤ 70 then some (c.toNat - 55)
  else if 97 ≤ c.toNat ∧ c.toNat ≤ 102 then some (c.toNat - 87)
  else none

/-- One `<0|1>` and the text after it. -/
def readBit : List Char → Option (Bool × List Char)
  | [] => none
  | c :: cs => if c = '0' then some (false, cs) else if c = '1' then some (true, cs) else none

/-- One `$<hh>` and the text after it. -/
def readByte : List Char → Option (Byte × List Char)
  | c :: h :: l :: cs =>
    if c = '$' then
      match hexValue h, hexValue l with
      | some x, some y => some (BitVec.ofNat 8 (16 * x + y), cs)
      | _, _ => none
    else none
  | _ => none

/-- One mnemonic, as its select bits, and the text after it. -/
def readMnemonic (cs : List Char) : Option ((Bool × Bool) × List Char) :=
  match takeLit "ADC_6502".toList cs with
  | some rest => some ((false, false), rest)
  | none =>
    match takeLit "SBC_6502".toList cs with
    | some rest => some ((false, true), rest)
    | none =>
      match takeLit "ADC_65C02".toList cs with
      | some rest => some ((true, false), rest)
      | none =>
        match takeLit "SBC_65C02".toList cs with
        | some rest => some ((true, true), rest)
        | none => none

/-- The left-hand side of R67's line read back, with the text after it. -/
def readInput (cs : List Char) : Option (Input × List Char) := do
  let (sel, cs) ← readMnemonic cs
  let cs ← takeLit " d=".toList cs
  let (d, cs) ← readBit cs
  let cs ← takeLit " c=".toList cs
  let (cIn, cs) ← readBit cs
  let cs ← takeLit " a=".toList cs
  let (a, cs) ← readByte cs
  let cs ← takeLit " b=".toList cs
  let (b, cs) ← readByte cs
  some ({ a := a, b := b, cIn := cIn, d := d, selSbc := sel.2, sel65c02 := sel.1 }, cs)

end Sys2Proof.Machine
end

