-- ==== Sys2Proof/Machine/Chain.lean ====
section
/-! DEFINITION. Chain: multi-byte arithmetic as the consumer makes it, by chaining evaluations through the C flag (R43). -/

namespace Sys2Proof.Machine

/-- One operation over pairs of an accumulator and an operand byte, the least significant first: each pair is loaded
into A and B, the instruction runs, and its C is the next one's `c_in` (R43). The results, and the last state. -/
def chainRun (i : Instr) : State → List (Byte × Byte) → Option (List Byte × State)
  | s, [] => some ([], s)
  | s, (x, y) :: rest =>
    match exec i ((s.setA x).setB y) with
    | .next t =>
      match chainRun i t rest with
      | some (rs, u) => some (t.a :: rs, u)
      | none => none
    | _ => none

/-- The unsigned number of some bytes, the least significant first. -/
def binValue : List Byte → Int
  | [] => 0
  | x :: xs => zext x + 256 * binValue xs

/-- The decimal number of some bytes of two digits each, the least significant first (R131). -/
def decValue : List Byte → Int
  | [] => 0
  | x :: xs => dec x + 100 * decValue xs

end Sys2Proof.Machine
end

