-- ==== Sys2Proof/Machine/Packed.lean ====
section
/-! DEFINITION. Packed: the 20-bit input vector and the 12-bit output vector of test vectors and exhaustive checks (R66). -/

namespace Sys2Proof.Machine

/-- `in[19:0]` = {`sel_65c02`, `sel_sbc`, `d`, `c_in`, `a`, `b`} (R66). -/
def packInput (x : Input) : BitVec 20 :=
  BitVec.ofBool x.sel65c02 ++ BitVec.ofBool x.selSbc ++ BitVec.ofBool x.d ++ BitVec.ofBool x.cIn ++ x.a ++ x.b

/-- The evaluation that an input vector stands for (R66). -/
def unpackInput (w : BitVec 20) : Input :=
  { sel65c02 := w.getLsbD 19
    selSbc := w.getLsbD 18
    d := w.getLsbD 17
    cIn := w.getLsbD 16
    a := w.extractLsb' 8 8
    b := w.extractLsb' 0 8 }

/-- `out[11:0]` = {`n`, `v`, `z`, `c_out`, `r`} (R66). -/
def packOutput (o : Output) : BitVec 12 :=
  BitVec.ofBool o.n ++ BitVec.ofBool o.v ++ BitVec.ofBool o.z ++ BitVec.ofBool o.cOut ++ o.r

/-- The outputs that an output vector stands for (R66). -/
def unpackOutput (w : BitVec 12) : Output :=
  { n := w.getLsbD 11
    v := w.getLsbD 10
    z := w.getLsbD 9
    cOut := w.getLsbD 8
    r := w.extractLsb' 0 8 }

/-- The core on packed vectors. -/
def aluVector (w : BitVec 20) : BitVec 12 := packOutput (alu (unpackInput w))

end Sys2Proof.Machine
end

