-- ==== Sys2Proof/Machine/Reference.lean ====
section
/-! DEFINITION. Reference: two second descriptions of the core that the spec gives for comparison, and counting over all
inputs. Nothing of the machine calls them: statements hold the core against them.
The first is the consolidated reference function of spec/43_alu_operations.md section 4, transcribed from its listing.
The second is the independently published decimal algorithm of spec/93_implementation_defined.md G4. -/

namespace Sys2Proof.Machine

/-! ### The consolidated reference function (43_alu_operations.md section 4) -/

/-- Its addition half. -/
def referenceAdd (sel65c02 d cIn : Bool) (a b : Byte) : Output :=
  let k : Nat := if cIn then 1 else 0
  let sa := a.toNat.testBit 7
  let sb := b.toNat.testBit 7
  let sum : Nat := a.toNat + b.toNat + k
  let rb := sum % 256
  if d = false then
    { r := BitVec.ofNat 8 rb, n := rb.testBit 7, v := (sa ^^ rb.testBit 7) && (sb ^^ rb.testBit 7), z := rb == 0,
      cOut := decide (256 ≤ sum) }
  else
    let lo0 := a.toNat % 16 + b.toNat % 16 + k
    let clo := decide (9 < lo0)
    let lo := if clo then (lo0 - 10) % 16 else lo0
    let hi0 := a.toNat / 16 + b.toNat / 16 + clo.toNat
    let chi := decide (9 < hi0)
    let hi := if chi then (hi0 - 10) % 16 else hi0
    let r := 16 * hi + lo
    let h3 := hi0.testBit 3
    let v := (sa ^^ h3) && (sb ^^ h3)
    if sel65c02 = false then { r := BitVec.ofNat 8 r, n := h3, v := v, z := rb == 0, cOut := chi }
    else { r := BitVec.ofNat 8 r, n := r.testBit 7, v := v, z := r == 0, cOut := chi }

/-- Its subtraction half. -/
def referenceSub (sel65c02 d cIn : Bool) (a b : Byte) : Output :=
  let sa := a.toNat.testBit 7
  let sb := b.toNat.testBit 7
  let borrow : Int := if cIn then 0 else 1
  let diff : Int := (a.toNat : Int) - (b.toNat : Int) - borrow
  let rb : Nat := (diff % 256).toNat
  let vb := (sa ^^ rb.testBit 7) && ((!sb) ^^ rb.testBit 7)
  if d = false then
    { r := BitVec.ofNat 8 rb, n := rb.testBit 7, v := vb, z := rb == 0, cOut := decide (0 ≤ diff) }
  else
    let lo0 : Int := ((a.toNat % 16 : Nat) : Int) - ((b.toNat % 16 : Nat) : Int) - borrow
    let blo := decide (lo0 < 0)
    let hi0 : Int := ((a.toNat / 16 : Nat) : Int) - ((b.toNat / 16 : Nat) : Int) - (if blo then 1 else 0)
    let bhi := decide (hi0 < 0)
    if sel65c02 = false then
      let lo := if blo then (lo0 + 10) % 16 else lo0
      let hi := if bhi then (hi0 + 10) % 16 else hi0
      { r := BitVec.ofNat 8 (16 * hi + lo).toNat, n := rb.testBit 7, v := vb, z := rb == 0, cOut := !bhi }
    else
      let lo1 := if blo then lo0 + 10 else lo0
      let lsn := decide (lo1 < 0)
      let lo := lo1 % 16
      let hb3 := decide (8 ≤ hi0 % 16)
      let hi1 := if bhi then hi0 + 10 else hi0
      let hi := (hi1 - (if lsn then 1 else 0)) % 16
      let r : Nat := (16 * hi + lo).toNat
      { r := BitVec.ofNat 8 r, n := r.testBit 7, v := (sa ^^ hb3) && ((!sb) ^^ hb3), z := r == 0, cOut := !bhi }

/-- `core(sel_65c02, sel_sbc, d, c_in, a, b)`. -/
def referenceCore (x : Input) : Output :=
  if x.selSbc = false then referenceAdd x.sel65c02 x.d x.cIn x.a x.b
  else referenceSub x.sel65c02 x.d x.cIn x.a x.b

/-! ### The independent decimal algorithm (93_implementation_defined.md G4) -/

/-- A nibble held in bits 7..4 as a signed number. -/
def signedHigh (x : Byte) : Int := ((x &&& 0xF0#8).toInt : Int)

/-- `AL` of decimal addition. -/
def tutorialAddAL (cIn : Bool) (a b : Byte) : Int :=
  let al : Int := ((a &&& 0x0F#8).toNat : Int) + ((b &&& 0x0F#8).toNat : Int) + bitVal cIn
  if 0x0A ≤ al then (al + 6) % 16 + 0x10 else al

/-- `S` of decimal addition, before and after its correction. -/
def tutorialAddS (cIn : Bool) (a b : Byte) : Int :=
  let s : Int := ((a &&& 0xF0#8).toNat : Int) + ((b &&& 0xF0#8).toNat : Int) + tutorialAddAL cIn a b
  if 0xA0 ≤ s then s + 0x60 else s

/-- The sum with signed high parts, for N and V. -/
def tutorialAddSigned (cIn : Bool) (a b : Byte) : Int := signedHigh a + signedHigh b + tutorialAddAL cIn a b

/-- Decimal ADC: result, N, V, Z, C. -/
def tutorialAdd (sel65c02 cIn : Bool) (a b : Byte) : Output :=
  let r := mod256 (tutorialAddS cIn a b)
  let v := decide (tutorialAddSigned cIn a b < -128 ∨ 127 < tutorialAddSigned cIn a b)
  let c := decide (0x100 ≤ tutorialAddS cIn a b)
  if sel65c02 then { r := r, n := signBit r, v := v, z := r == 0, cOut := c }
  else
    { r := r, n := intBit 7 (tutorialAddSigned cIn a b), v := v,
      z := mod256 ((a.toNat : Int) + (b.toNat : Int) + bitVal cIn) == 0, cOut := c }

/-- `AL` of decimal subtraction before its correction. -/
def tutorialSubAL (cIn : Bool) (a b : Byte) : Int :=
  ((a &&& 0x0F#8).toNat : Int) - ((b &&& 0x0F#8).toNat : Int) + bitVal cIn - 1

/-- 6502 decimal SBC: the result. -/
def tutorialSub6502 (cIn : Bool) (a b : Byte) : Byte :=
  let al0 := tutorialSubAL cIn a b
  let al := if al0 < 0 then (al0 - 6) % 16 - 0x10 else al0
  let s : Int := ((a &&& 0xF0#8).toNat : Int) - ((b &&& 0xF0#8).toNat : Int) + al
  mod256 (if s < 0 then s - 0x60 else s)

/-- 65C02 decimal SBC: the result. -/
def tutorialSub65C02 (cIn : Bool) (a b : Byte) : Byte :=
  let s : Int := (a.toNat : Int) - (b.toNat : Int) + bitVal cIn - 1
  let s1 := if s < 0 then s - 0x60 else s
  mod256 (if tutorialSubAL cIn a b < 0 then s1 - 6 else s1)

/-- Decimal SBC: V and C as binary SBC; N and Z as binary SBC on the 6502 and from the result on the 65C02. -/
def tutorialSub (sel65c02 cIn : Bool) (a b : Byte) : Output :=
  let diff : Int := (a.toNat : Int) - (b.toNat : Int) + bitVal cIn - 1
  let v := decide (a.toInt - b.toInt + bitVal cIn - 1 < -128 ∨ 127 < a.toInt - b.toInt + bitVal cIn - 1)
  let c := decide (0 ≤ diff)
  if sel65c02 then
    let r := tutorialSub65C02 cIn a b
    { r := r, n := signBit r, v := v, z := r == 0, cOut := c }
  else { r := tutorialSub6502 cIn a b, n := signBit (mod256 diff), v := v, z := mod256 diff == 0, cOut := c }

/-! ### Counting over all inputs of one operation in one mode -/

/-- `f 0 + … + f (n − 1)`. -/
def sumBelow (f : Nat → Nat) : Nat → Nat
  | 0 => 0
  | n + 1 => sumBelow f n + f n

/-- How many of the 2^17 inputs (c_in, a, b) satisfy `p`. -/
def countInputs (p : Bool → Byte → Byte → Bool) : Nat :=
  sumBelow (fun x => sumBelow (fun y =>
    (p false (BitVec.ofNat 8 x) (BitVec.ofNat 8 y)).toNat + (p true (BitVec.ofNat 8 x) (BitVec.ofNat 8 y)).toNat) 256) 256

/-- How many of the 2^18 inputs (d, c_in, a, b) of one operation satisfy `p` (R159, R160). -/
def countAll (p : Bool → Bool → Byte → Byte → Bool) : Nat := countInputs (p false) + countInputs (p true)

end Sys2Proof.Machine
end

