-- ==== Sys2Proof/Safety.lean ====
section
/-! DEFINITION. Safety: what counts as a safe run, and the invariants that statements use. The core has no error state
(R186, R200), so a run is safe when every step answers a next state. -/

namespace Sys2Proof.Machine

/-- A step that neither faults nor is refused. -/
def SafeStep (s : State) : Prop := ∃ t, step s = .next t

/-- The program has halted: no step has the number `pos` (95_test_vectors.md 3.1). -/
def State.Halted (s : State) : Prop := s.fetch = none

/-- A step of a program of `len` steps goes only to a step it has, or just past the last one, where the program halts. -/
def ProgStep.targetOk (len : Nat) : ProgStep → Bool
  | .consumer (.gotoIf _ _ k) => decide (1 ≤ k) && decide (k ≤ len + 1)
  | .consumer _ => true
  | .evaluate _ _ => true

/-- Every goto of the program has a target. -/
def targetsOk (p : List ProgStep) : Bool := p.all (ProgStep.targetOk p.length)

/-- The consumer is at a step of its program or just past the last one, and every goto has a target. -/
structure State.Inv (s : State) : Prop where
  targets : targetsOk s.program = true
  started : 1 ≤ s.pos
  inside : s.pos ≤ s.program.length + 1

/-- A step that keeps a decimal program decimal: it loads only valid BCD bytes and never clears D. -/
def ProgStep.keepsDecimal : ProgStep → Bool
  | .consumer (.setA x) => validBcd x
  | .consumer (.setB x) => validBcd x
  | .consumer (.setD x) => x
  | .consumer _ => true
  | .evaluate _ _ => true

/-- Decimal mode is on and every data byte of the consumer is a valid BCD byte, under a program that keeps it so. -/
structure State.DecimalInv (s : State) : Prop where
  decimal : s.d = true
  accumulator : validBcd s.a = true
  operand : validBcd s.b = true
  scratch0 : validBcd s.t0 = true
  scratch1 : validBcd s.t1 = true
  program : s.program.all ProgStep.keepsDecimal = true

/-- The state an evaluation may not touch: everything but A, N, V, Z and C (R185). -/
structure OnlyResultChanged (s t : State) : Prop where
  b : t.b = s.b
  d : t.d = s.d
  t0 : t.t0 = s.t0
  t1 : t.t1 = s.t1
  program : t.program = s.program
  pos : t.pos = s.pos

end Sys2Proof.Machine
end

