-- ==== Sys2Proof/Certificates/Slice0/Obligations.lean ====
section
/-! DEFINITION. Obligations: the statements for the provers, from the numbered rules of spec/. -/

open Sys2Proof Sys2Proof.Machine

/-! ### Reset, decoding, steps -/

/-- What reset leaves. The spec gives no value for any register (R221): every value is the model's choice, log entries
2 and 3; the empty program and the position are log entry 4. A parameter `p` (D13) is what the consumer's reset left. -/
def Obligations.ResetHoldsTheChosenValues : Prop :=
  State.reset = State.resetWith Config.consumerReset ∧
  (State.reset.a = 0 ∧ State.reset.b = 0 ∧ State.reset.t0 = 0 ∧ State.reset.t1 = 0) ∧
  (State.reset.n = false ∧ State.reset.v = false ∧ State.reset.z = false ∧ State.reset.c = false ∧
    State.reset.d = false) ∧
  (State.reset.program = [] ∧ State.reset.pos = 1) ∧
  ∀ p : ConsumerResetFlags,
    (State.resetWith p).a = p.a ∧ (State.resetWith p).n = p.n ∧ (State.resetWith p).v = p.v ∧
    (State.resetWith p).z = p.z ∧ (State.resetWith p).c = p.c ∧ (State.resetWith p).d = p.d

/-- R60: the three fields of the control word; `ctrl[0]` is the consumer's D flag. -/
def Obligations.ControlWordFields : Prop :=
  (∀ w : Ctrl, (decodeCtrl w).sel65c02 = w.getLsbD 2 ∧ (decodeCtrl w).selSbc = w.getLsbD 1 ∧
    (decodeCtrl w).decimal = w.getLsbD 0) ∧
  (∀ x y d : Bool, (ctrlWord x y d).getLsbD 2 = x ∧ (ctrlWord x y d).getLsbD 1 = y ∧
    (ctrlWord x y d).getLsbD 0 = d) ∧
  ∀ (s : State) (x y : Bool), (s.issue x y).sel65c02 = x ∧ (s.issue x y).selSbc = y ∧ (s.issue x y).decimal = s.d

/-- The 3-bit words of spec/opcode_table.json, written out bit by bit, decode to the instructions they stand for. The
table gives the three bits; that a byte carries them in its bits 2..0 with the rest zero is the model's choice (log
entry 8, DESIGN CHOICE). -/
def Obligations.TableWordsDecode : Prop :=
  decode [0b00000000#8] = .ok (.adc6502 false) [] ∧
  decode [0b00000011#8] = .ok (.sbc6502 true) [] ∧
  decode [0b00000101#8] = .ok (.adc65C02 true) [] ∧
  decode [0b00000110#8] = .ok (.sbc65C02 false) [] ∧
  decodeTableWord 8 0b001 = some (.adc6502 true) ∧
  decodeTableWord 8 0b111 = some (.sbc65C02 true)

/-- R62, R180: which operation and which engine each of the eight control words selects; `d` selects the binary engine
when false and the variant's decimal engine otherwise; the engine's outputs are written back unchanged. -/
def Obligations.EachControlWordSelectsItsEngine : Prop :=
  (decodeCtrl 0b000#3 = .adc6502 false ∧ decodeCtrl 0b001#3 = .adc6502 true ∧
    decodeCtrl 0b010#3 = .sbc6502 false ∧ decodeCtrl 0b011#3 = .sbc6502 true ∧
    decodeCtrl 0b100#3 = .adc65C02 false ∧ decodeCtrl 0b101#3 = .adc65C02 true ∧
    decodeCtrl 0b110#3 = .sbc65C02 false ∧ decodeCtrl 0b111#3 = .sbc65C02 true) ∧
  ∀ s : State,
    exec (decodeCtrl 0b000#3) s = .next (s.writeBack (outputOf (rBinAdd s.c s.a s.b) (flagsBinAdd s.c s.a s.b))) ∧
    exec (decodeCtrl 0b001#3) s = .next (s.writeBack (outputOf (rDecAdd s.c s.a s.b) (flagsDecAdd6502 s.c s.a s.b))) ∧
    exec (decodeCtrl 0b010#3) s = .next (s.writeBack (outputOf (rBinSub s.c s.a s.b) (flagsBinSub s.c s.a s.b))) ∧
    exec (decodeCtrl 0b011#3) s =
      .next (s.writeBack (outputOf (rDecSub6502 s.c s.a s.b) (flagsDecSub6502 s.c s.a s.b))) ∧
    exec (decodeCtrl 0b100#3) s = exec (decodeCtrl 0b000#3) s ∧
    exec (decodeCtrl 0b101#3) s =
      .next (s.writeBack (outputOf (rDecAdd s.c s.a s.b) (flagsDecAdd65C02 s.c s.a s.b))) ∧
    exec (decodeCtrl 0b110#3) s = exec (decodeCtrl 0b010#3) s ∧
    exec (decodeCtrl 0b111#3) s =
      .next (s.writeBack (outputOf (rDecSub65C02 s.c s.a s.b) (flagsDecSub65C02 s.c s.a s.b)))

/-- A step runs the decoded instruction: where the next step of the program is an evaluation, its control word (its
select bits with the D flag as `ctrl[0]`), read as a byte, decodes to a well-formed instruction, and the step is
exec of it after the position has moved on. The second clause says it from the instruction's side. Reading the control
word as a byte is the model's choice (log entry 8, DESIGN CHOICE); that an instruction carries the bit d, which a step
takes from the D flag, is log entry 9 (DEDUCED). -/
def Obligations.StepRunsTheDecodedInstruction : Prop :=
  (∀ (s : State) (x y : Bool) (i : Instr), s.fetch = some (.evaluate x y) →
    decode [(ctrlWord x y s.d).setWidth 8] = .ok i [] →
    i.wellFormed = true ∧ step s = exec i { s with pos := s.pos + 1 }) ∧
  ∀ (s : State) (i : Instr), s.fetch = some (.evaluate i.sel65c02 i.selSbc) → s.d = i.decimal →
    step s = exec i { s with pos := s.pos + 1 }

/-- The word placed by `withFetchWord` is the next instruction to run (the model's choice, log entries 4 and 17);
registers and flags but D are as before. -/
def Obligations.PlacedWordRunsNext : Prop :=
  ∀ (s : State) (nbits w : Nat) (i : Instr), decodeTableWord nbits w = some i →
    let p := s.withFetchWord nbits w
    step p = exec i { p with pos := p.pos + 1 } ∧
    (p.a = s.a ∧ p.b = s.b ∧ p.n = s.n ∧ p.v = s.v ∧ p.z = s.z ∧ p.c = s.c ∧ p.t0 = s.t0 ∧ p.t1 = s.t1) ∧
    p.d = i.decimal

/-- The steps of the consumer that do not use the core (95_test_vectors.md 3.1). That a goto may go to a number no step
has (k = 0 or past the end) is the model's choice (log entry 6, DESIGN CHOICE), and that it may test any of the five
flags is the model's reading (log entry 7, DEDUCED). -/
def Obligations.ConsumerActionsDoOnlyWhatTheySay : Prop :=
  ∀ s : State,
    (∀ x, s.fetch = some (.consumer (.setA x)) → step s = .next { s with a := x, pos := s.pos + 1 }) ∧
    (∀ x, s.fetch = some (.consumer (.setB x)) → step s = .next { s with b := x, pos := s.pos + 1 }) ∧
    (∀ x, s.fetch = some (.consumer (.setC x)) → step s = .next { s with c := x, pos := s.pos + 1 }) ∧
    (∀ x, s.fetch = some (.consumer (.setD x)) → step s = .next { s with d := x, pos := s.pos + 1 }) ∧
    (s.fetch = some (.consumer (.saveA .t0)) → step s = .next { s with t0 := s.a, pos := s.pos + 1 }) ∧
    (s.fetch = some (.consumer (.saveA .t1)) → step s = .next { s with t1 := s.a, pos := s.pos + 1 }) ∧
    (∀ f x k, s.fetch = some (.consumer (.gotoIf f x k)) → s.flag f = x → step s = .next { s with pos := k }) ∧
    (∀ f x k, s.fetch = some (.consumer (.gotoIf f x k)) → s.flag f ≠ x → step s = .next { s with pos := s.pos + 1 })

/-- A program that has no step of the number `pos` has halted: nothing changes (the model's choice, log entries 5, 6). -/
def Obligations.HaltedProgramStays : Prop :=
  ∀ s : State, s.pos = 0 ∨ s.program.length < s.pos → s.Halted ∧ step s = .next s

/-! ### The whole machine -/

/-- Every instruction completes in every state and neither faults nor is refused, which is R186 for the core. That every
step answers a next state is the model's: a halted program stays and a goto to a missing step halts (log entries 5 and
6, DESIGN CHOICE), and the consumer's own steps have no error (log entry 16, DEDUCED). -/
def Obligations.EveryInstructionCompletes : Prop :=
  (∀ (i : Instr) (s : State), ∃ t, exec i s = .next t) ∧
  (∀ s : State, SafeStep s) ∧
  (∀ (i : Instr) (s : State) (f : Fault), exec i s ≠ .fault f) ∧
  ∀ (i : Instr) (s : State) (r : Refusal), exec i s ≠ .refused r

/-- R185: the consumer reads D, C, A and the operand, evaluates the core, overwrites A, N, V, Z and C, and touches no
other state (but its own step number). -/
def Obligations.ConsumerContract : Prop :=
  ∀ (s : State) (x y : Bool), s.fetch = some (.evaluate x y) →
    let o := alu { a := s.a, b := s.b, cIn := s.c, d := s.d, selSbc := y, sel65c02 := x }
    step s = .next { s with a := o.r, n := o.n, v := o.v, z := o.z, c := o.cOut, pos := s.pos + 1 }

/-- The frame of every instruction (R185, R30, R188): everything but A, N, V, Z and C is as before. -/
def Obligations.InstructionsTouchNothingElse : Prop :=
  ∀ (i : Instr) (s : State), ∃ t, exec i s = .next t ∧
    t.b = s.b ∧ t.d = s.d ∧ t.t0 = s.t0 ∧ t.t1 = s.t1 ∧ t.program = s.program ∧ t.pos = s.pos

/-- R150: all four flags and the result are functions of the current evaluation's inputs: two states that agree on A,
the operand and C, and on nothing else, get the same A, N, V, Z and C. -/
def Obligations.ResultsDependOnInputsOnly : Prop :=
  ∀ (i : Instr) (s s' : State), s.a = s'.a → s.b = s'.b → s.c = s'.c →
    ∃ t t', exec i s = .next t ∧ exec i s' = .next t' ∧
      t.a = t'.a ∧ t.n = t'.n ∧ t.v = t'.v ∧ t.z = t'.z ∧ t.c = t'.c

/-- No step changes the program. -/
def Obligations.NoStepChangesTheProgram : Prop :=
  ∀ s t : State, step s = .next t → t.program = s.program

/-- Which steps can change which register or flag: D only the consumer's own assignment; C its assignment or an
evaluation; N, V and Z an evaluation alone; A its assignment or an evaluation (R190, R185). -/
def Obligations.OnlyTheseStepsChangeEachFlag : Prop :=
  ∀ s t : State, step s = .next t →
    (t.d ≠ s.d → s.fetch = some (.consumer (.setD t.d))) ∧
    (t.c ≠ s.c → s.fetch = some (.consumer (.setC t.c)) ∨ ∃ x y, s.fetch = some (.evaluate x y)) ∧
    (t.n ≠ s.n ∨ t.v ≠ s.v ∨ t.z ≠ s.z → ∃ x y, s.fetch = some (.evaluate x y)) ∧
    (t.a ≠ s.a → s.fetch = some (.consumer (.setA t.a)) ∨ ∃ x y, s.fetch = some (.evaluate x y)) ∧
    (t.b ≠ s.b → s.fetch = some (.consumer (.setB t.b)))

/-- R8: binding the variant as a parameter gives the outputs of the select bit. -/
def Obligations.VariantParameterAgreesWithSelectBit : Prop :=
  ∀ (op : Operation) (d cIn : Bool) (a b : Byte),
    aluOfVariant .v6502 op d cIn a b =
      alu { a := a, b := b, cIn := cIn, d := d, selSbc := decide (op = .sbc), sel65c02 := false } ∧
    aluOfVariant .v65C02 op d cIn a b =
      alu { a := a, b := b, cIn := cIn, d := d, selSbc := decide (op = .sbc), sel65c02 := true }

/-! ### Binary mode -/

/-- R100, R151: binary ADC, both variants: the result mod 256, C out of 8 bits, N and Z of the result, V by the sign
rule and as signed overflow. -/
def Obligations.BinaryAddResultAndFlags : Prop :=
  ∀ i, i = .adc6502 false ∨ i = .adc65C02 false → ∀ s : State, ∃ t, exec i s = .next t ∧
    t.a.toNat = (s.a.toNat + s.b.toNat + s.c.toNat) % 256 ∧
    t.c = decide (0x100 ≤ s.a.toNat + s.b.toNat + s.c.toNat) ∧
    t.n = t.a.getLsbD 7 ∧
    t.z = decide (t.a = 0) ∧
    t.v = ((s.a.getLsbD 7 ^^ t.a.getLsbD 7) && (s.b.getLsbD 7 ^^ t.a.getLsbD 7)) ∧
    (t.v = true ↔ s.a.toInt + s.b.toInt + (s.c.toNat : Int) < -128 ∨
      127 < s.a.toInt + s.b.toInt + (s.c.toNat : Int)) ∧
    OnlyResultChanged s t

/-- R101, R152: binary SBC, both variants: the difference mod 256 (a clear C is a borrow), C = no borrow by an unsigned
comparison without wraparound, N and Z of the result, V with the operand's sign complemented and as signed overflow. -/
def Obligations.BinarySubResultAndFlags : Prop :=
  ∀ i, i = .sbc6502 false ∨ i = .sbc65C02 false → ∀ s : State, ∃ t, exec i s = .next t ∧
    (t.a.toNat : Int) = ((s.a.toNat : Int) - s.b.toNat - (1 - s.c.toNat)) % 256 ∧
    t.c = decide (s.b.toNat + (1 - s.c.toNat) ≤ s.a.toNat) ∧
    t.n = t.a.getLsbD 7 ∧
    t.z = decide (t.a = 0) ∧
    t.v = ((s.a.getLsbD 7 ^^ t.a.getLsbD 7) && ((!s.b.getLsbD 7) ^^ t.a.getLsbD 7)) ∧
    t.v = ((s.a.getLsbD 7 ^^ s.b.getLsbD 7) && (s.a.getLsbD 7 ^^ t.a.getLsbD 7)) ∧
    (t.v = true ↔ s.a.toInt - s.b.toInt - (1 - (s.c.toNat : Int)) < -128 ∨
      127 < s.a.toInt - s.b.toInt - (1 - (s.c.toNat : Int))) ∧
    OnlyResultChanged s t

/-- R102: binary SBC is binary ADC of the inverted operand, in result and C (and so in every flag). -/
def Obligations.BinarySubIsAddOfInvertedOperand : Prop :=
  ∀ s : State, ∃ t u, exec (.sbc6502 false) s = .next t ∧
    exec (.adc6502 false) { s with b := s.b ^^^ 0xFF#8 } = .next u ∧ (s.b ^^^ 0xFF#8).toNat = 255 - s.b.toNat ∧
    t.a = u.a ∧ t.c = u.c ∧ t.n = u.n ∧ t.v = u.v ∧ t.z = u.z

/-- R103: with d = 0 the variants give identical outputs. -/
def Obligations.VariantsShareTheBinaryEngine : Prop :=
  ∀ s : State, exec (.adc6502 false) s = exec (.adc65C02 false) s ∧ exec (.sbc6502 false) s = exec (.sbc65C02 false) s

/-- R105: binary ADC is commutative in A and the operand; binary SBC is not. -/
def Obligations.BinaryAddCommutesSubDoesNot : Prop :=
  (∀ i, i = .adc6502 false ∨ i = .adc65C02 false → ∀ s : State, ∃ t u, exec i s = .next t ∧
    exec i { s with a := s.b, b := s.a } = .next u ∧
    t.a = u.a ∧ t.n = u.n ∧ t.v = u.v ∧ t.z = u.z ∧ t.c = u.c) ∧
  ∀ i, i = .sbc6502 false ∨ i = .sbc65C02 false → ∃ s t u, exec i s = .next t ∧
    exec i { s with a := s.b, b := s.a } = .next u ∧ t.a ≠ u.a

/-- R187: adding zero without carry, in binary mode, gives A back with its N and Z, and clears C and V. -/
def Obligations.BinaryAddZeroRoundTrip : Prop :=
  ∀ i, i = .adc6502 false ∨ i = .adc65C02 false → ∀ s : State, s.c = false → s.b = 0 → ∃ t, exec i s = .next t ∧
    t.a = s.a ∧ t.n = decide (0x80 ≤ s.a.toNat) ∧ t.z = decide (s.a = 0) ∧ t.c = false ∧ t.v = false

/-! ### Decimal mode: each operation -/

/-- R120, R121, R122, R153: 6502 decimal ADC. -/
def Obligations.DecimalAdd6502ResultAndFlags : Prop :=
  ∀ s : State, ∃ t, exec (.adc6502 true) s = .next t ∧
    let lo0 : Nat := s.a.toNat % 16 + s.b.toNat % 16 + s.c.toNat
    let lo : Nat := if 9 < lo0 then (lo0 - 10) % 16 else lo0
    let hi0 : Nat := s.a.toNat / 16 + s.b.toNat / 16 + (if 9 < lo0 then 1 else 0)
    let hi : Nat := if 9 < hi0 then (hi0 - 10) % 16 else hi0
    t.a.toNat = 16 * hi + lo ∧
    t.c = decide (9 < hi0) ∧
    t.n = hi0.testBit 3 ∧
    t.v = ((s.a.getLsbD 7 ^^ hi0.testBit 3) && (s.b.getLsbD 7 ^^ hi0.testBit 3)) ∧
    t.z = decide ((s.a.toNat + s.b.toNat + s.c.toNat) % 256 = 0) ∧
    OnlyResultChanged s t

/-- R120, R121, R122, R156: 65C02 decimal ADC. -/
def Obligations.DecimalAdd65C02ResultAndFlags : Prop :=
  ∀ s : State, ∃ t, exec (.adc65C02 true) s = .next t ∧
    let lo0 : Nat := s.a.toNat % 16 + s.b.toNat % 16 + s.c.toNat
    let lo : Nat := if 9 < lo0 then (lo0 - 10) % 16 else lo0
    let hi0 : Nat := s.a.toNat / 16 + s.b.toNat / 16 + (if 9 < lo0 then 1 else 0)
    let hi : Nat := if 9 < hi0 then (hi0 - 10) % 16 else hi0
    t.a.toNat = 16 * hi + lo ∧
    t.c = decide (9 < hi0) ∧
    t.n = t.a.getLsbD 7 ∧
    t.v = ((s.a.getLsbD 7 ^^ hi0.testBit 3) && (s.b.getLsbD 7 ^^ hi0.testBit 3)) ∧
    t.z = decide (t.a = 0) ∧
    OnlyResultChanged s t

/-- R124, R125, R126, R154: 6502 decimal SBC; N, V and Z are those of the binary difference `rb`. -/
def Obligations.DecimalSub6502ResultAndFlags : Prop :=
  ∀ s : State, ∃ t, exec (.sbc6502 true) s = .next t ∧
    let bi : Int := 1 - (s.c.toNat : Int)
    let lo0 : Int := (s.a.toNat % 16 : Nat) - (s.b.toNat % 16 : Nat) - bi
    let lo : Int := if lo0 < 0 then (lo0 + 10) % 16 else lo0
    let hi0 : Int := (s.a.toNat / 16 : Nat) - (s.b.toNat / 16 : Nat) - (if lo0 < 0 then 1 else 0)
    let hi : Int := if hi0 < 0 then (hi0 + 10) % 16 else hi0
    let rb : Int := ((s.a.toNat : Int) - s.b.toNat - bi) % 256
    (t.a.toNat : Int) = 16 * hi + lo ∧
    t.c = !decide (hi0 < 0) ∧
    t.n = decide (128 ≤ rb) ∧
    t.z = decide (rb = 0) ∧
    t.v = ((s.a.getLsbD 7 ^^ decide (128 ≤ rb)) && ((!s.b.getLsbD 7) ^^ decide (128 ≤ rb))) ∧
    OnlyResultChanged s t

/-- R127, R128, R129, R157: 65C02 decimal SBC with the still-negative step; V from bit 3 of the pre-correction high
nibble. -/
def Obligations.DecimalSub65C02ResultAndFlags : Prop :=
  ∀ s : State, ∃ t, exec (.sbc65C02 true) s = .next t ∧
    let bi : Int := 1 - (s.c.toNat : Int)
    let lo0 : Int := (s.a.toNat % 16 : Nat) - (s.b.toNat % 16 : Nat) - bi
    let lo1 : Int := if lo0 < 0 then lo0 + 10 else lo0
    let lsn : Int := if lo1 < 0 then 1 else 0
    let hi0 : Int := (s.a.toNat / 16 : Nat) - (s.b.toNat / 16 : Nat) - (if lo0 < 0 then 1 else 0)
    let hb3 : Bool := decide (8 ≤ hi0 % 16)
    let hi1 : Int := if hi0 < 0 then hi0 + 10 else hi0
    (t.a.toNat : Int) = 16 * ((hi1 - lsn) % 16) + lo1 % 16 ∧
    t.c = !decide (hi0 < 0) ∧
    t.n = t.a.getLsbD 7 ∧
    t.z = decide (t.a = 0) ∧
    t.v = ((s.a.getLsbD 7 ^^ hb3) && ((!s.b.getLsbD 7) ^^ hb3)) ∧
    OnlyResultChanged s t

/-! ### Decimal mode: laws -/

/-- R123: the two decimal ADCs have the same result and carry at every input. -/
def Obligations.DecimalAddSameResultOnBothVariants : Prop :=
  ∀ s : State, ∃ t u, exec (.adc6502 true) s = .next t ∧ exec (.adc65C02 true) s = .next u ∧ t.a = u.a ∧ t.c = u.c

/-- Decimal ADC is commutative on both variants (R181, corner cases; 95_test_vectors.md section 4). -/
def Obligations.DecimalAddCommutes : Prop :=
  ∀ i, i = .adc6502 true ∨ i = .adc65C02 true → ∀ s : State, ∃ t u, exec i s = .next t ∧
    exec i { s with a := s.b, b := s.a } = .next u ∧
    t.a = u.a ∧ t.n = u.n ∧ t.v = u.v ∧ t.z = u.z ∧ t.c = u.c

/-- R130: the range of every intermediate of the decimal datapaths. -/
def Obligations.DecimalIntermediateRanges : Prop :=
  ∀ (cIn : Bool) (a b : Byte),
    (0 ≤ addLo0 cIn a b ∧ addLo0 cIn a b ≤ 31) ∧ (0 ≤ addHi0 cIn a b ∧ addHi0 cIn a b ≤ 31) ∧
    (-16 ≤ subLo0 cIn a b ∧ subLo0 cIn a b ≤ 15) ∧ (-16 ≤ subHi0 cIn a b ∧ subHi0 cIn a b ≤ 15) ∧
    (-6 ≤ sub65C02Lo1 cIn a b ∧ sub65C02Lo1 cIn a b ≤ 15) ∧ (-6 ≤ sub65C02Hi1 cIn a b ∧ sub65C02Hi1 cIn a b ≤ 15) ∧
    (-7 ≤ sub65C02Hi1 cIn a b - bitVal (sub65C02Lsn cIn a b) ∧
      sub65C02Hi1 cIn a b - bitVal (sub65C02Lsn cIn a b) ≤ 15)

/-- R131: on valid BCD bytes each decimal operation is decimal arithmetic with a carry or borrow of 100, its result is a
valid BCD byte, and the variants agree in result and carry. -/
def Obligations.ValidBcdIsDecimalArithmetic : Prop :=
  ∀ s : State, validBcd s.a = true → validBcd s.b = true →
    (∃ t u, exec (.adc6502 true) s = .next t ∧ exec (.adc65C02 true) s = .next u ∧
      t.a = u.a ∧ t.c = u.c ∧ validBcd t.a = true ∧
      dec t.a + 100 * (t.c.toNat : Int) = dec s.a + dec s.b + (s.c.toNat : Int)) ∧
    ∃ t u, exec (.sbc6502 true) s = .next t ∧ exec (.sbc65C02 true) s = .next u ∧
      t.a = u.a ∧ t.c = u.c ∧ validBcd t.a = true ∧
      dec t.a - 100 * (1 - (t.c.toNat : Int)) = dec s.a - dec s.b - (1 - (s.c.toNat : Int))

/-- R132: the two decimal SBCs differ in the accumulator exactly when `lsn` is 1, at 9216 of the 2^18 inputs, all with an
operand low nibble of 10 or more; otherwise they have the same nibbles, and their carries are always equal. -/
def Obligations.DecimalSubVariantsDifferIffStillNegative : Prop :=
  (∀ s : State, ∃ t u, exec (.sbc6502 true) s = .next t ∧ exec (.sbc65C02 true) s = .next u ∧ t.c = u.c ∧
    (t.a ≠ u.a ↔ sub65C02Lsn s.c s.a s.b = true) ∧
    (sub65C02Lsn s.c s.a s.b = true ↔ loNibble s.a - loNibble s.b - (1 - bitVal s.c) ≤ -11) ∧
    (sub65C02Lsn s.c s.a s.b = true → 10 ≤ loNibble s.b) ∧
    (sub65C02Lsn s.c s.a s.b = false → sub6502Hi s.c s.a s.b = sub65C02Hi s.c s.a s.b ∧
      sub6502Lo s.c s.a s.b = sub65C02Lo s.c s.a s.b)) ∧
  countAll (fun d c a b => (sbc6502 d c a b).r != (sbc65C02 d c a b).r) = 9216

/-- R134: nothing passes from the high lane to the low lane; only the low lane's carry, borrow and `lsn` pass to the high
lane; the high lane's carry or borrow is C. -/
def Obligations.LanesPassOnlyLowToHigh : Prop :=
  (∀ (i : Instr) (s s' : State), i.decimal = true → s.c = s'.c → loNibble s.a = loNibble s'.a →
    loNibble s.b = loNibble s'.b →
    ∃ t t', exec i s = .next t ∧ exec i s' = .next t' ∧ loNibble t.a = loNibble t'.a) ∧
  (∀ (i : Instr) (s s' : State), i.decimal = true → hiNibble s.a = hiNibble s'.a → hiNibble s.b = hiNibble s'.b →
    (i.selSbc = false → addClo s.c s.a s.b = addClo s'.c s'.a s'.b) →
    (i.selSbc = true → subBlo s.c s.a s.b = subBlo s'.c s'.a s'.b) →
    (i.selSbc = true → i.sel65c02 = true → sub65C02Lsn s.c s.a s.b = sub65C02Lsn s'.c s'.a s'.b) →
    ∃ t t', exec i s = .next t ∧ exec i s' = .next t' ∧ hiNibble t.a = hiNibble t'.a ∧ t.c = t'.c) ∧
  ∀ (i : Instr) (s : State), i.decimal = true → ∃ t, exec i s = .next t ∧
    t.c = if i.selSbc then !subBhi s.c s.a s.b else addChi s.c s.a s.b

/-- R155: all four flags of the 6502 decimal SBC are those of binary SBC, and only the accumulator differs. -/
def Obligations.Sbc6502DecimalFlagsAreBinary : Prop :=
  ∀ s : State, ∃ t u, exec (.sbc6502 true) s = .next t ∧ exec (.sbc6502 false) s = .next u ∧
    t.c = u.c ∧ t.n = u.n ∧ t.v = u.v ∧ t.z = u.z ∧ t = { u with a := t.a }

/-- R158: V and C of the 65C02 decimal SBC are those of binary SBC; `hb3` is bit 7 of the binary difference. -/
def Obligations.Sbc65C02DecimalOverflowAndCarryAreBinary : Prop :=
  ∀ s : State, ∃ t u, exec (.sbc65C02 true) s = .next t ∧ exec (.sbc65C02 false) s = .next u ∧
    t.v = u.v ∧ t.c = u.c ∧ sub65C02Hb3 s.c s.a s.b = u.a.getLsbD 7

/-- R159: Z says that the result is zero on these paths; it fails to on the two 6502 decimal paths, at 1039 and 488 of
the 2^18 inputs, 0x99 + 0x01 and 0x00 − 0x99 with c_in = 0 among them. -/
def Obligations.ZeroFlagAndResult : Prop :=
  (∀ i, i = .adc6502 false ∨ i = .adc65C02 false ∨ i = .sbc6502 false ∨ i = .sbc65C02 false ∨
      i = .adc65C02 true ∨ i = .sbc65C02 true →
    ∀ s : State, ∃ t, exec i s = .next t ∧ t.z = decide (t.a = 0)) ∧
  countAll (fun d c a b => (adc6502 d c a b).z != ((adc6502 d c a b).r == 0)) = 1039 ∧
  countAll (fun d c a b => (sbc6502 d c a b).z != ((sbc6502 d c a b).r == 0)) = 488 ∧
  (∀ s : State, s.a = 0x99#8 → s.b = 0x01#8 → s.c = false →
    ∃ t, exec (.adc6502 true) s = .next t ∧ t.a = 0 ∧ t.z = false) ∧
  ∀ s : State, s.a = 0x00#8 → s.b = 0x99#8 → s.c = false →
    ∃ t, exec (.sbc6502 true) s = .next t ∧ t.a = 0 ∧ t.z = false

/-- R160, for every input: what the variants always share in decimal mode. -/
def Obligations.VariantsShareOverflowAndCarry : Prop :=
  ∀ (s : State) (d : Bool),
    (∃ t u, exec (.adc6502 d) s = .next t ∧ exec (.adc65C02 d) s = .next u ∧ t.a = u.a ∧ t.v = u.v ∧ t.c = u.c) ∧
    ∃ t u, exec (.sbc6502 d) s = .next t ∧ exec (.sbc65C02 d) s = .next u ∧ t.v = u.v ∧ t.c = u.c

/-- R160, counted over the 2^18 inputs of each operation: where the variants differ. -/
def Obligations.VariantDivergenceCounts : Prop :=
  countAll (fun d c a b => (adc6502 d c a b).n != (adc65C02 d c a b).n) = 83880 ∧
  countAll (fun d c a b => (adc6502 d c a b).z != (adc65C02 d c a b).z) = 1039 ∧
  countAll (fun d c a b => validBcd a && validBcd b && (adc6502 d c a b != adc65C02 d c a b)) = 8831 ∧
  countAll (fun d c a b => (sbc6502 d c a b).r != (sbc65C02 d c a b).r) = 9216 ∧
  countAll (fun d c a b => (sbc6502 d c a b).n != (sbc65C02 d c a b).n) = 44592 ∧
  countAll (fun d c a b => (sbc6502 d c a b).z != (sbc65C02 d c a b).z) = 488 ∧
  countAll (fun d c a b => validBcd a && validBcd b && (sbc6502 d c a b != sbc65C02 d c a b)) = 6010

/-! ### Packed vectors, text, second descriptions -/

/-- R66: where each field lies in the packed vectors, and that nothing is lost by packing. -/
def Obligations.PackedVectorLayout : Prop :=
  (∀ x : Input, (packInput x).getLsbD 19 = x.sel65c02 ∧ (packInput x).getLsbD 18 = x.selSbc ∧
    (packInput x).getLsbD 17 = x.d ∧ (packInput x).getLsbD 16 = x.cIn ∧
    (packInput x).extractLsb' 8 8 = x.a ∧ (packInput x).extractLsb' 0 8 = x.b ∧
    (packInput x).extractLsb' 17 3 = ctrlWord x.sel65c02 x.selSbc x.d ∧ unpackInput (packInput x) = x) ∧
  (∀ o : Output, (packOutput o).getLsbD 11 = o.n ∧ (packOutput o).getLsbD 10 = o.v ∧
    (packOutput o).getLsbD 9 = o.z ∧ (packOutput o).getLsbD 8 = o.cOut ∧
    (packOutput o).extractLsb' 0 8 = o.r ∧ unpackOutput (packOutput o) = o) ∧
  (∀ w : BitVec 20, packInput (unpackInput w) = w) ∧
  ∀ x : Input, aluVector (packInput x) = packOutput (alu x)

/-- The text of an evaluation (R67; its spacing and digit case are the model's, log entry 14) reads back as the same
evaluation, whatever text follows it. -/
def Obligations.EvaluationTextReadsBack : Prop :=
  ∀ (x : Input) (rest : List Char), readInput (inputText x ++ rest) = some (x, rest)

/-- The core is the spec's consolidated reference function (43_alu_operations.md section 4) at every input. -/
def Obligations.CoreIsTheReferenceFunction : Prop :=
  ∀ x : Input, alu x = referenceCore x

/-- The core's decimal operations are the independently published decimal algorithm (93_implementation_defined.md G4) at
every input. -/
def Obligations.DecimalModeIsTheIndependentAlgorithm : Prop :=
  ∀ (s : State),
    (∃ t u, exec (.adc6502 true) s = .next t ∧ exec (.adc65C02 true) s = .next u ∧
      t = s.writeBack (tutorialAdd false s.c s.a s.b) ∧ u = s.writeBack (tutorialAdd true s.c s.a s.b)) ∧
    ∃ t u, exec (.sbc6502 true) s = .next t ∧ exec (.sbc65C02 true) s = .next u ∧
      t = s.writeBack (tutorialSub false s.c s.a s.b) ∧ u = s.writeBack (tutorialSub true s.c s.a s.b)

/-! ### Encoding, invariants, chains -/

/-- Decode and encode are inverse: over one instruction followed by any bytes, over whole lists of instructions, and over
control words (R60, R62, R63); a byte that is no control word is rejected by name. That bytes carry control words, and
that a byte of 8 or more is none, is the model's choice (log entry 8, DESIGN CHOICE). -/
def Obligations.DecodeInvertsEncode : Prop :=
  (∀ (bytes : List Byte) (i : Instr) (rest : List Byte), decode bytes = .ok i rest ↔ bytes = encode i ++ rest) ∧
  (∀ is : List Instr, decodeAll (encodeAll is) = some is) ∧
  (∀ (bytes : List Byte) (is : List Instr), decodeAll bytes = some is → encodeAll is = bytes) ∧
  (∀ w : Ctrl, encodeCtrl (decodeCtrl w) = w) ∧
  ∀ (w : Byte) (rest : List Byte), 8 ≤ w.toNat → decode (w :: rest) = .rejected (.notAControlWord w)

/-- Every step keeps the consumer inside its program. -/
def Obligations.StepKeepsPositionInProgram : Prop :=
  ∀ s t : State, s.Inv → step s = .next t → t.Inv

/-- The position is inside the (empty) program right after reset (log entry 4). -/
def Obligations.ResetPositionInProgram : Prop :=
  State.reset.Inv ∧ ∀ p : ConsumerResetFlags, (State.resetWith p).Inv

/-- Every step of a decimal program keeps every data byte valid BCD, on both variants (a consequence of R131). -/
def Obligations.StepKeepsDecimalDataValid : Prop :=
  ∀ s t : State, s.DecimalInv → step s = .next t → t.DecimalInv

/-- A consumer whose reset left D set and a valid BCD accumulator starts with valid decimal data; the other bytes are
zero by log entry 3. -/
def Obligations.DecimalResetIsValid : Prop :=
  ∀ p : ConsumerResetFlags, p.d = true → validBcd p.a = true → (State.resetWith p).DecimalInv

/-- R43: chained through C, binary ADC adds numbers of any number of bytes. -/
def Obligations.ChainedBinaryAddIsMultiByteAdd : Prop :=
  ∀ i, i = .adc6502 false ∨ i = .adc65C02 false → ∀ (s : State) (pairs : List (Byte × Byte)),
    ∃ rs t, chainRun i s pairs = some (rs, t) ∧ rs.length = pairs.length ∧
      binValue rs + 256 ^ pairs.length * bitVal t.c =
        binValue (pairs.map Prod.fst) + binValue (pairs.map Prod.snd) + bitVal s.c

/-- R43: chained through C, binary SBC subtracts numbers of any number of bytes. -/
def Obligations.ChainedBinarySubIsMultiByteSub : Prop :=
  ∀ i, i = .sbc6502 false ∨ i = .sbc65C02 false → ∀ (s : State) (pairs : List (Byte × Byte)),
    ∃ rs t, chainRun i s pairs = some (rs, t) ∧ rs.length = pairs.length ∧
      binValue rs - 256 ^ pairs.length * (1 - bitVal t.c) =
        binValue (pairs.map Prod.fst) - binValue (pairs.map Prod.snd) - (1 - bitVal s.c)

/-- R43 with R131: chained through C, decimal ADC adds decimal numbers of any even number of digits. -/
def Obligations.ChainedDecimalAddIsMultiDigitAdd : Prop :=
  ∀ i, i = .adc6502 true ∨ i = .adc65C02 true → ∀ (s : State) (pairs : List (Byte × Byte)),
    (∀ p ∈ pairs, validBcd p.1 = true ∧ validBcd p.2 = true) →
    ∃ rs t, chainRun i s pairs = some (rs, t) ∧ rs.length = pairs.length ∧ (∀ r ∈ rs, validBcd r = true) ∧
      decValue rs + 100 ^ pairs.length * bitVal t.c =
        decValue (pairs.map Prod.fst) + decValue (pairs.map Prod.snd) + bitVal s.c

/-- R43 with R131: chained through C, decimal SBC subtracts decimal numbers of any even number of digits. -/
def Obligations.ChainedDecimalSubIsMultiDigitSub : Prop :=
  ∀ i, i = .sbc6502 true ∨ i = .sbc65C02 true → ∀ (s : State) (pairs : List (Byte × Byte)),
    (∀ p ∈ pairs, validBcd p.1 = true ∧ validBcd p.2 = true) →
    ∃ rs t, chainRun i s pairs = some (rs, t) ∧ rs.length = pairs.length ∧ (∀ r ∈ rs, validBcd r = true) ∧
      decValue rs - 100 ^ pairs.length * (1 - bitVal t.c) =
        decValue (pairs.map Prod.fst) - decValue (pairs.map Prod.snd) - (1 - bitVal s.c)
end

