-- ==== Sys2Proof/Laws/Decode.lean ====
section
/-! SUPPORT. Laws.Decode: the fields of the control word, and the rows of the opcode table. -/

namespace Sys2Proof

@[simp] theorem ctrlWord_sel65c02 (x y d : Bool) : (ctrlWord x y d).getLsbD 2 = x := by
  cases x <;> cases y <;> cases d <;> rfl

@[simp] theorem ctrlWord_selSbc (x y d : Bool) : (ctrlWord x y d).getLsbD 1 = y := by
  cases x <;> cases y <;> cases d <;> rfl

@[simp] theorem ctrlWord_decimal (x y d : Bool) : (ctrlWord x y d).getLsbD 0 = d := by
  cases x <;> cases y <;> cases d <;> rfl

@[simp] theorem decodeCtrl_ctrlWord_adc6502 (d : Bool) : decodeCtrl (ctrlWord false false d) = .adc6502 d := by
  cases d <;> rfl

@[simp] theorem decodeCtrl_ctrlWord_sbc6502 (d : Bool) : decodeCtrl (ctrlWord false true d) = .sbc6502 d := by
  cases d <;> rfl

@[simp] theorem decodeCtrl_ctrlWord_adc65C02 (d : Bool) : decodeCtrl (ctrlWord true false d) = .adc65C02 d := by
  cases d <;> rfl

@[simp] theorem decodeCtrl_ctrlWord_sbc65C02 (d : Bool) : decodeCtrl (ctrlWord true true d) = .sbc65C02 d := by
  cases d <;> rfl

/-- The encoder's word is the word of the instruction's fields (R60). -/
theorem encodeCtrl_eq_ctrlWord (i : Instr) : encodeCtrl i = ctrlWord i.sel65c02 i.selSbc i.decimal := by
  rcases i with (_ | _) | (_ | _) | (_ | _) | (_ | _) <;> rfl

/-- No two rows of the opcode table share a control word. -/
theorem opcodeTable_disjoint :
    opcodeTable.Pairwise fun r q => ∀ w : Ctrl, ¬(r.fits w = true ∧ q.fits w = true) := by
  decide

/-- Every control word fits a row (R63). -/
theorem opcodeTable_total : ∀ w : Ctrl, opcodeTable.any (fun r => r.fits w) = true := by
  decide

end Sys2Proof
end

