-- ==== Sys2Proof/Laws/State.lean ====
section
/-! SUPPORT. Laws.State: one lemma for each field under each update of the state, true by unfolding the update once. -/

namespace Sys2Proof.Machine.State

variable (s : State)

/-! ### advance -/

@[simp] theorem advance_a : (s.advance).a = s.a := rfl
@[simp] theorem advance_b : (s.advance).b = s.b := rfl
@[simp] theorem advance_n : (s.advance).n = s.n := rfl
@[simp] theorem advance_v : (s.advance).v = s.v := rfl
@[simp] theorem advance_z : (s.advance).z = s.z := rfl
@[simp] theorem advance_c : (s.advance).c = s.c := rfl
@[simp] theorem advance_d : (s.advance).d = s.d := rfl
@[simp] theorem advance_t0 : (s.advance).t0 = s.t0 := rfl
@[simp] theorem advance_t1 : (s.advance).t1 = s.t1 := rfl
@[simp] theorem advance_program : (s.advance).program = s.program := rfl
@[simp] theorem advance_pos : (s.advance).pos = s.pos + 1 := rfl

/-! ### jump -/

@[simp] theorem jump_a (k : Nat) : (s.jump k).a = s.a := rfl
@[simp] theorem jump_b (k : Nat) : (s.jump k).b = s.b := rfl
@[simp] theorem jump_n (k : Nat) : (s.jump k).n = s.n := rfl
@[simp] theorem jump_v (k : Nat) : (s.jump k).v = s.v := rfl
@[simp] theorem jump_z (k : Nat) : (s.jump k).z = s.z := rfl
@[simp] theorem jump_c (k : Nat) : (s.jump k).c = s.c := rfl
@[simp] theorem jump_d (k : Nat) : (s.jump k).d = s.d := rfl
@[simp] theorem jump_t0 (k : Nat) : (s.jump k).t0 = s.t0 := rfl
@[simp] theorem jump_t1 (k : Nat) : (s.jump k).t1 = s.t1 := rfl
@[simp] theorem jump_program (k : Nat) : (s.jump k).program = s.program := rfl
@[simp] theorem jump_pos (k : Nat) : (s.jump k).pos = k := rfl

/-! ### setA -/

@[simp] theorem setA_a (x : Byte) : (s.setA x).a = x := rfl
@[simp] theorem setA_b (x : Byte) : (s.setA x).b = s.b := rfl
@[simp] theorem setA_n (x : Byte) : (s.setA x).n = s.n := rfl
@[simp] theorem setA_v (x : Byte) : (s.setA x).v = s.v := rfl
@[simp] theorem setA_z (x : Byte) : (s.setA x).z = s.z := rfl
@[simp] theorem setA_c (x : Byte) : (s.setA x).c = s.c := rfl
@[simp] theorem setA_d (x : Byte) : (s.setA x).d = s.d := rfl
@[simp] theorem setA_t0 (x : Byte) : (s.setA x).t0 = s.t0 := rfl
@[simp] theorem setA_t1 (x : Byte) : (s.setA x).t1 = s.t1 := rfl
@[simp] theorem setA_program (x : Byte) : (s.setA x).program = s.program := rfl
@[simp] theorem setA_pos (x : Byte) : (s.setA x).pos = s.pos := rfl

/-! ### setB -/

@[simp] theorem setB_a (x : Byte) : (s.setB x).a = s.a := rfl
@[simp] theorem setB_b (x : Byte) : (s.setB x).b = x := rfl
@[simp] theorem setB_n (x : Byte) : (s.setB x).n = s.n := rfl
@[simp] theorem setB_v (x : Byte) : (s.setB x).v = s.v := rfl
@[simp] theorem setB_z (x : Byte) : (s.setB x).z = s.z := rfl
@[simp] theorem setB_c (x : Byte) : (s.setB x).c = s.c := rfl
@[simp] theorem setB_d (x : Byte) : (s.setB x).d = s.d := rfl
@[simp] theorem setB_t0 (x : Byte) : (s.setB x).t0 = s.t0 := rfl
@[simp] theorem setB_t1 (x : Byte) : (s.setB x).t1 = s.t1 := rfl
@[simp] theorem setB_program (x : Byte) : (s.setB x).program = s.program := rfl
@[simp] theorem setB_pos (x : Byte) : (s.setB x).pos = s.pos := rfl

/-! ### setC -/

@[simp] theorem setC_a (x : Bool) : (s.setC x).a = s.a := rfl
@[simp] theorem setC_b (x : Bool) : (s.setC x).b = s.b := rfl
@[simp] theorem setC_n (x : Bool) : (s.setC x).n = s.n := rfl
@[simp] theorem setC_v (x : Bool) : (s.setC x).v = s.v := rfl
@[simp] theorem setC_z (x : Bool) : (s.setC x).z = s.z := rfl
@[simp] theorem setC_c (x : Bool) : (s.setC x).c = x := rfl
@[simp] theorem setC_d (x : Bool) : (s.setC x).d = s.d := rfl
@[simp] theorem setC_t0 (x : Bool) : (s.setC x).t0 = s.t0 := rfl
@[simp] theorem setC_t1 (x : Bool) : (s.setC x).t1 = s.t1 := rfl
@[simp] theorem setC_program (x : Bool) : (s.setC x).program = s.program := rfl
@[simp] theorem setC_pos (x : Bool) : (s.setC x).pos = s.pos := rfl

/-! ### setD -/

@[simp] theorem setD_a (x : Bool) : (s.setD x).a = s.a := rfl
@[simp] theorem setD_b (x : Bool) : (s.setD x).b = s.b := rfl
@[simp] theorem setD_n (x : Bool) : (s.setD x).n = s.n := rfl
@[simp] theorem setD_v (x : Bool) : (s.setD x).v = s.v := rfl
@[simp] theorem setD_z (x : Bool) : (s.setD x).z = s.z := rfl
@[simp] theorem setD_c (x : Bool) : (s.setD x).c = s.c := rfl
@[simp] theorem setD_d (x : Bool) : (s.setD x).d = x := rfl
@[simp] theorem setD_t0 (x : Bool) : (s.setD x).t0 = s.t0 := rfl
@[simp] theorem setD_t1 (x : Bool) : (s.setD x).t1 = s.t1 := rfl
@[simp] theorem setD_program (x : Bool) : (s.setD x).program = s.program := rfl
@[simp] theorem setD_pos (x : Bool) : (s.setD x).pos = s.pos := rfl

/-! ### writeBack -/

@[simp] theorem writeBack_a (o : Output) : (s.writeBack o).a = o.r := rfl
@[simp] theorem writeBack_b (o : Output) : (s.writeBack o).b = s.b := rfl
@[simp] theorem writeBack_n (o : Output) : (s.writeBack o).n = o.n := rfl
@[simp] theorem writeBack_v (o : Output) : (s.writeBack o).v = o.v := rfl
@[simp] theorem writeBack_z (o : Output) : (s.writeBack o).z = o.z := rfl
@[simp] theorem writeBack_c (o : Output) : (s.writeBack o).c = o.cOut := rfl
@[simp] theorem writeBack_d (o : Output) : (s.writeBack o).d = s.d := rfl
@[simp] theorem writeBack_t0 (o : Output) : (s.writeBack o).t0 = s.t0 := rfl
@[simp] theorem writeBack_t1 (o : Output) : (s.writeBack o).t1 = s.t1 := rfl
@[simp] theorem writeBack_program (o : Output) : (s.writeBack o).program = s.program := rfl
@[simp] theorem writeBack_pos (o : Output) : (s.writeBack o).pos = s.pos := rfl

/-! ### saveA -/

@[simp] theorem saveA_a (t : ScratchName) : (s.saveA t).a = s.a := by cases t <;> rfl
@[simp] theorem saveA_b (t : ScratchName) : (s.saveA t).b = s.b := by cases t <;> rfl
@[simp] theorem saveA_n (t : ScratchName) : (s.saveA t).n = s.n := by cases t <;> rfl
@[simp] theorem saveA_v (t : ScratchName) : (s.saveA t).v = s.v := by cases t <;> rfl
@[simp] theorem saveA_z (t : ScratchName) : (s.saveA t).z = s.z := by cases t <;> rfl
@[simp] theorem saveA_c (t : ScratchName) : (s.saveA t).c = s.c := by cases t <;> rfl
@[simp] theorem saveA_d (t : ScratchName) : (s.saveA t).d = s.d := by cases t <;> rfl
@[simp] theorem saveA_program (t : ScratchName) : (s.saveA t).program = s.program := by cases t <;> rfl
@[simp] theorem saveA_pos (t : ScratchName) : (s.saveA t).pos = s.pos := by cases t <;> rfl
@[simp] theorem saveA_t0_t0 : (s.saveA .t0).t0 = s.a := rfl
@[simp] theorem saveA_t0_t1 : (s.saveA .t0).t1 = s.t1 := rfl
@[simp] theorem saveA_t1_t0 : (s.saveA .t1).t0 = s.t0 := rfl
@[simp] theorem saveA_t1_t1 : (s.saveA .t1).t1 = s.a := rfl

/-! ### placeStep and placeInstr -/

@[simp] theorem placeStep_a (p : ProgStep) : (s.placeStep p).a = s.a := rfl
@[simp] theorem placeStep_b (p : ProgStep) : (s.placeStep p).b = s.b := rfl
@[simp] theorem placeStep_n (p : ProgStep) : (s.placeStep p).n = s.n := rfl
@[simp] theorem placeStep_v (p : ProgStep) : (s.placeStep p).v = s.v := rfl
@[simp] theorem placeStep_z (p : ProgStep) : (s.placeStep p).z = s.z := rfl
@[simp] theorem placeStep_c (p : ProgStep) : (s.placeStep p).c = s.c := rfl
@[simp] theorem placeStep_d (p : ProgStep) : (s.placeStep p).d = s.d := rfl
@[simp] theorem placeStep_t0 (p : ProgStep) : (s.placeStep p).t0 = s.t0 := rfl
@[simp] theorem placeStep_t1 (p : ProgStep) : (s.placeStep p).t1 = s.t1 := rfl

@[simp] theorem placeInstr_a (i : Instr) : (s.placeInstr i).a = s.a := rfl
@[simp] theorem placeInstr_b (i : Instr) : (s.placeInstr i).b = s.b := rfl
@[simp] theorem placeInstr_n (i : Instr) : (s.placeInstr i).n = s.n := rfl
@[simp] theorem placeInstr_v (i : Instr) : (s.placeInstr i).v = s.v := rfl
@[simp] theorem placeInstr_z (i : Instr) : (s.placeInstr i).z = s.z := rfl
@[simp] theorem placeInstr_c (i : Instr) : (s.placeInstr i).c = s.c := rfl
@[simp] theorem placeInstr_d (i : Instr) : (s.placeInstr i).d = i.decimal := rfl
@[simp] theorem placeInstr_t0 (i : Instr) : (s.placeInstr i).t0 = s.t0 := rfl
@[simp] theorem placeInstr_t1 (i : Instr) : (s.placeInstr i).t1 = s.t1 := rfl

/-! ### flag -/

@[simp] theorem flag_n : s.flag .n = s.n := rfl
@[simp] theorem flag_v : s.flag .v = s.v := rfl
@[simp] theorem flag_z : s.flag .z = s.z := rfl
@[simp] theorem flag_c : s.flag .c = s.c := rfl
@[simp] theorem flag_d : s.flag .d = s.d := rfl

end Sys2Proof.Machine.State
end

