-- ==== Sys2Proof/Laws/Exec.lean ====
section
/-! SUPPORT. Laws.Exec: what exec and step can do, said once. -/

namespace Sys2Proof.Machine

/-! ### exec -/

@[simp] theorem exec_adc6502 (d : Bool) (s : State) :
    exec (.adc6502 d) s = .next (s.writeBack (adc6502 d s.c s.a s.b)) := rfl

@[simp] theorem exec_sbc6502 (d : Bool) (s : State) :
    exec (.sbc6502 d) s = .next (s.writeBack (sbc6502 d s.c s.a s.b)) := rfl

@[simp] theorem exec_adc65C02 (d : Bool) (s : State) :
    exec (.adc65C02 d) s = .next (s.writeBack (adc65C02 d s.c s.a s.b)) := rfl

@[simp] theorem exec_sbc65C02 (d : Bool) (s : State) :
    exec (.sbc65C02 d) s = .next (s.writeBack (sbc65C02 d s.c s.a s.b)) := rfl

/-- Every instruction reads its inputs, evaluates the core and writes back (R185). -/
theorem exec_eq (i : Instr) (s : State) :
    exec i s = .next (s.writeBack (alu (s.readInput i.sel65c02 i.selSbc i.decimal))) := by
  cases i <;> rfl

@[simp] theorem adc6502_false (cIn : Bool) (a b : Byte) : adc6502 false cIn a b = addWithCarry cIn a b := rfl
@[simp] theorem adc6502_true (cIn : Bool) (a b : Byte) : adc6502 true cIn a b = addDecimal6502 cIn a b := rfl
@[simp] theorem sbc6502_false (cIn : Bool) (a b : Byte) : sbc6502 false cIn a b = subWithCarry cIn a b := rfl
@[simp] theorem sbc6502_true (cIn : Bool) (a b : Byte) : sbc6502 true cIn a b = subDecimal6502 cIn a b := rfl
@[simp] theorem adc65C02_false (cIn : Bool) (a b : Byte) : adc65C02 false cIn a b = addWithCarry cIn a b := rfl
@[simp] theorem adc65C02_true (cIn : Bool) (a b : Byte) : adc65C02 true cIn a b = addDecimal65C02 cIn a b := rfl
@[simp] theorem sbc65C02_false (cIn : Bool) (a b : Byte) : sbc65C02 false cIn a b = subWithCarry cIn a b := rfl
@[simp] theorem sbc65C02_true (cIn : Bool) (a b : Byte) : sbc65C02 true cIn a b = subDecimal65C02 cIn a b := rfl

/-! ### step -/

/-- All that a step can do: nothing where the program has halted; one action of the consumer; one instruction. -/
theorem step_cases {s t : State} (h : step s = .next t) :
    (s.fetch = none ∧ t = s) ∨
    (∃ act, s.fetch = some (.consumer act) ∧ t = act.run s.advance) ∨
    (∃ x y, s.fetch = some (.evaluate x y) ∧ exec (s.issue x y) s.advance = .next t) := by
  unfold step at h
  split at h
  · rename_i hf
    exact .inl ⟨hf, by cases h; rfl⟩
  · rename_i act hf
    exact .inr (.inl ⟨act, hf, by cases h; rfl⟩)
  · rename_i x y hf
    exact .inr (.inr ⟨x, y, hf, h⟩)

/-- A step that is fetched is a step of the program, and its number lies inside it. -/
theorem fetch_some {s : State} {p : ProgStep} (h : s.fetch = some p) :
    p ∈ s.program ∧ 1 ≤ s.pos ∧ s.pos ≤ s.program.length := by
  unfold State.fetch at h
  split at h
  · cases h
  · rename_i k hk
    have := (List.getElem?_eq_some_iff.1 h).1
    exact ⟨List.mem_of_getElem? h, by omega, by omega⟩

/-- The step just placed is the next one to be fetched. -/
@[simp] theorem fetch_placeStep (s : State) (p : ProgStep) : (s.placeStep p).fetch = some p := by
  unfold State.fetch State.placeStep
  simp only []
  rw [List.getElem?_append_right (by simp)]
  simp

end Sys2Proof.Machine
end

