-- ==== Sys2Proof/Laws/Chain.lean ====
section
/-! SUPPORT. Laws.Chain: one link of a multi-byte chain (R43). -/

namespace Sys2Proof.Machine

@[simp] theorem chainRun_nil (i : Instr) (s : State) : chainRun i s [] = some ([], s) := rfl

/-- A link whose instruction answers `t` leaves `t`'s accumulator and goes on from `t`. -/
theorem chainRun_cons {i : Instr} {s t u : State} {x y : Byte} {rest : List (Byte × Byte)} {rs : List Byte}
    (h : exec i ((s.setA x).setB y) = .next t) (hr : chainRun i t rest = some (rs, u)) :
    chainRun i s ((x, y) :: rest) = some (t.a :: rs, u) := by
  simp [chainRun, h, hr]

end Sys2Proof.Machine
end

