-- ==== Sys2Proof/Laws/Counting.lean ====
section
/-! SUPPORT. Laws.Counting: counting inputs depends only on which inputs satisfy the predicate. -/

namespace Sys2Proof.Machine

theorem sumBelow_congr {f g : Nat → Nat} (n : Nat) (h : ∀ k, k < n → f k = g k) : sumBelow f n = sumBelow g n := by
  induction n with
  | zero => rfl
  | succ n ih =>
    simp only [sumBelow]
    rw [ih fun k hk => h k (by omega), h n (by omega)]

theorem sumBelow_zero (n : Nat) : sumBelow (fun _ => 0) n = 0 := by
  induction n with
  | zero => rfl
  | succ n ih => simp [sumBelow, ih]

theorem sumBelow_add (f g : Nat → Nat) (n : Nat) : sumBelow (fun k => f k + g k) n = sumBelow f n + sumBelow g n := by
  induction n with
  | zero => rfl
  | succ n ih =>
    simp only [sumBelow, ih]
    omega

theorem countInputs_congr {p q : Bool → Byte → Byte → Bool} (h : ∀ c a b, p c a b = q c a b) :
    countInputs p = countInputs q := by
  have : p = q := by
    funext c a b
    exact h c a b
  rw [this]

theorem countInputs_none {p : Bool → Byte → Byte → Bool} (h : ∀ c a b, p c a b = false) : countInputs p = 0 := by
  rw [countInputs_congr (q := fun _ _ _ => false) h]
  simp [countInputs, sumBelow_zero]

end Sys2Proof.Machine
end

