-- ==== Sys2Proof/Laws/Operands.lean ====
section
/-! SUPPORT. Laws.Operands: what each operand field and each primitive of the notation is, in integers, so that later
proofs are case splits and linear arithmetic. -/

namespace Sys2Proof.Machine

/-! ### Bits and bytes as numbers -/

@[simp] theorem bitVal_false : bitVal false = 0 := rfl
@[simp] theorem bitVal_true : bitVal true = 1 := rfl
@[simp] theorem borrowIn_false : borrowIn false = 1 := rfl
@[simp] theorem borrowIn_true : borrowIn true = 0 := rfl

theorem bitVal_bounds (c : Bool) : 0 ≤ bitVal c ∧ bitVal c ≤ 1 := by cases c <;> decide

theorem borrowIn_bounds (c : Bool) : 0 ≤ borrowIn c ∧ borrowIn c ≤ 1 := by cases c <;> decide

theorem zext_bounds (x : Byte) : 0 ≤ zext x ∧ zext x < 256 := by
  have := x.isLt
  unfold zext
  omega

theorem loNibble_eq (x : Byte) : loNibble x = zext x % 16 := by
  simp [loNibble, zext, BitVec.extractLsb'_toNat]

theorem hiNibble_eq (x : Byte) : hiNibble x = zext x / 16 := by
  have := x.isLt
  simp only [hiNibble, zext, BitVec.extractLsb'_toNat, Nat.shiftRight_eq_div_pow]
  omega

theorem loNibble_bounds (x : Byte) : 0 ≤ loNibble x ∧ loNibble x < 16 := by
  rw [loNibble_eq]
  omega

theorem hiNibble_bounds (x : Byte) : 0 ≤ hiNibble x ∧ hiNibble x < 16 := by
  have := zext_bounds x
  rw [hiNibble_eq]
  omega

/-- A byte is its two nibbles (R12). -/
theorem zext_eq_nibbles (x : Byte) : zext x = 16 * hiNibble x + loNibble x := by
  rw [loNibble_eq, hiNibble_eq]
  omega

theorem zext_inj {x y : Byte} : zext x = zext y ↔ x = y := by
  constructor
  · intro h
    apply BitVec.eq_of_toNat_eq
    unfold zext at h
    omega
  · rintro rfl
    rfl

theorem byte_eq_iff_nibbles {x y : Byte} : x = y ↔ hiNibble x = hiNibble y ∧ loNibble x = loNibble y := by
  rw [← zext_inj, zext_eq_nibbles x, zext_eq_nibbles y]
  have := loNibble_bounds x
  have := loNibble_bounds y
  omega

theorem zext_eq_zero {x : Byte} : zext x = 0 ↔ x = 0 := by
  rw [← zext_inj]
  rfl

/-- The zero test of a flag rule as a number test. -/
theorem beq_zero_eq (x : Byte) : (x == 0) = decide (zext x = 0) := by
  rw [Bool.eq_iff_iff]
  simp only [beq_iff_eq, decide_eq_true_eq]
  exact zext_eq_zero.symm

/-! ### The sign bit and the signed value -/

theorem signBit_eq (x : Byte) : signBit x = decide (128 ≤ zext x) := by
  have hx := x.isLt
  have h : signBit x = decide (128 ≤ x.toNat) := by
    unfold signBit
    rw [show x.getLsbD 7 = x.msb by simp [BitVec.msb_eq_getLsbD_last], BitVec.msb_eq_decide]
  rw [h, decide_eq_decide]
  unfold zext
  omega

theorem signBit_eq_hiNibble (x : Byte) : signBit x = decide (8 ≤ hiNibble x) := by
  rw [signBit_eq, decide_eq_decide, hiNibble_eq]
  omega

theorem sext_eq (x : Byte) : sext x = if 128 ≤ zext x then zext x - 256 else zext x := by
  have := x.isLt
  unfold sext zext
  rw [BitVec.toInt_eq_toNat_cond]
  split <;> split <;> omega

/-! ### Integers as bytes -/

theorem zext_mod256 (x : Int) : zext (mod256 x) = x % 256 := by
  unfold zext mod256
  rw [BitVec.toNat_ofInt]
  omega

theorem zext_joinNibbles {hi lo : Int} (h0 : 0 ≤ hi) (h1 : hi < 16) (l0 : 0 ≤ lo) (l1 : lo < 16) :
    zext (joinNibbles hi lo) = 16 * hi + lo := by
  have h : zext (joinNibbles hi lo) = (16 * hi + lo) % 256 := zext_mod256 (16 * hi + lo)
  omega

theorem hiNibble_joinNibbles {hi lo : Int} (h0 : 0 ≤ hi) (h1 : hi < 16) (l0 : 0 ≤ lo) (l1 : lo < 16) :
    hiNibble (joinNibbles hi lo) = hi := by
  rw [hiNibble_eq, zext_joinNibbles h0 h1 l0 l1]
  omega

theorem loNibble_joinNibbles {hi lo : Int} (h0 : 0 ≤ hi) (h1 : hi < 16) (l0 : 0 ≤ lo) (l1 : lo < 16) :
    loNibble (joinNibbles hi lo) = lo := by
  rw [loNibble_eq, zext_joinNibbles h0 h1 l0 l1]
  omega

theorem mod256_eq_iff {x y : Int} : mod256 x = mod256 y ↔ x % 256 = y % 256 := by
  rw [← zext_inj, zext_mod256, zext_mod256]

theorem intBit_three (x : Int) : intBit 3 x = decide (8 ≤ x % 16) := rfl

/-! ### Valid BCD -/

theorem validBcd_iff (x : Byte) : validBcd x = true ↔ loNibble x ≤ 9 ∧ hiNibble x ≤ 9 := by
  simp [validBcd]

theorem dec_bounds {x : Byte} (h : validBcd x = true) : 0 ≤ dec x ∧ dec x ≤ 99 := by
  have := (validBcd_iff x).1 h
  have := loNibble_bounds x
  have := hiNibble_bounds x
  unfold dec
  omega

end Sys2Proof.Machine
end

