-- ==== Sys2Proof/Laws/Datapaths.lean ====
section
/-! SUPPORT. Laws.Datapaths: the corrected nibbles of every decimal path lie in 0..15, so each result byte has exactly
those nibbles; what each engine's output is, field by field. -/

namespace Sys2Proof.Machine

variable (cIn : Bool) (a b : Byte)

/-! ### The corrected nibbles are nibbles -/

theorem addLo_bounds : 0 ≤ addLo cIn a b ∧ addLo cIn a b < 16 := by
  have := loNibble_bounds a
  have := loNibble_bounds b
  have := bitVal_bounds cIn
  unfold addLo addClo addLo0
  split <;> simp_all <;> omega

theorem addHi_bounds : 0 ≤ addHi cIn a b ∧ addHi cIn a b < 16 := by
  have := hiNibble_bounds a
  have := hiNibble_bounds b
  have := bitVal_bounds (addClo cIn a b)
  unfold addHi addChi addHi0
  split <;> simp_all <;> omega

theorem sub6502Lo_bounds : 0 ≤ sub6502Lo cIn a b ∧ sub6502Lo cIn a b < 16 := by
  have := loNibble_bounds a
  have := loNibble_bounds b
  have := borrowIn_bounds cIn
  unfold sub6502Lo subBlo subLo0
  split <;> simp_all <;> omega

theorem sub6502Hi_bounds : 0 ≤ sub6502Hi cIn a b ∧ sub6502Hi cIn a b < 16 := by
  have := hiNibble_bounds a
  have := hiNibble_bounds b
  have := bitVal_bounds (subBlo cIn a b)
  unfold sub6502Hi subBhi subHi0
  split <;> simp_all <;> omega

theorem sub65C02Lo_bounds : 0 ≤ sub65C02Lo cIn a b ∧ sub65C02Lo cIn a b < 16 := by
  unfold sub65C02Lo
  omega

theorem sub65C02Hi_bounds : 0 ≤ sub65C02Hi cIn a b ∧ sub65C02Hi cIn a b < 16 := by
  unfold sub65C02Hi
  omega

/-! ### The nibbles of each decimal result -/

@[simp] theorem rDecAdd_lo : loNibble (rDecAdd cIn a b) = addLo cIn a b :=
  loNibble_joinNibbles (addHi_bounds cIn a b).1 (addHi_bounds cIn a b).2 (addLo_bounds cIn a b).1 (addLo_bounds cIn a b).2

@[simp] theorem rDecAdd_hi : hiNibble (rDecAdd cIn a b) = addHi cIn a b :=
  hiNibble_joinNibbles (addHi_bounds cIn a b).1 (addHi_bounds cIn a b).2 (addLo_bounds cIn a b).1 (addLo_bounds cIn a b).2

@[simp] theorem rDecSub6502_lo : loNibble (rDecSub6502 cIn a b) = sub6502Lo cIn a b :=
  loNibble_joinNibbles (sub6502Hi_bounds cIn a b).1 (sub6502Hi_bounds cIn a b).2 (sub6502Lo_bounds cIn a b).1
    (sub6502Lo_bounds cIn a b).2

@[simp] theorem rDecSub6502_hi : hiNibble (rDecSub6502 cIn a b) = sub6502Hi cIn a b :=
  hiNibble_joinNibbles (sub6502Hi_bounds cIn a b).1 (sub6502Hi_bounds cIn a b).2 (sub6502Lo_bounds cIn a b).1
    (sub6502Lo_bounds cIn a b).2

@[simp] theorem rDecSub65C02_lo : loNibble (rDecSub65C02 cIn a b) = sub65C02Lo cIn a b :=
  loNibble_joinNibbles (sub65C02Hi_bounds cIn a b).1 (sub65C02Hi_bounds cIn a b).2 (sub65C02Lo_bounds cIn a b).1
    (sub65C02Lo_bounds cIn a b).2

@[simp] theorem rDecSub65C02_hi : hiNibble (rDecSub65C02 cIn a b) = sub65C02Hi cIn a b :=
  hiNibble_joinNibbles (sub65C02Hi_bounds cIn a b).1 (sub65C02Hi_bounds cIn a b).2 (sub65C02Lo_bounds cIn a b).1
    (sub65C02Lo_bounds cIn a b).2

/-- `lo` of the 65C02 equals `lo` of the 6502 at every input (R127, corner cases). -/
theorem sub65C02Lo_eq : sub65C02Lo cIn a b = sub6502Lo cIn a b := by
  have := loNibble_bounds a
  have := borrowIn_bounds cIn
  have := loNibble_bounds b
  unfold sub65C02Lo sub65C02Lo1 sub6502Lo subBlo subLo0
  split <;> simp_all
  omega

/-! ### The binary results -/

@[simp] theorem zext_rBinAdd : zext (rBinAdd cIn a b) = (zext a + zext b + bitVal cIn) % 256 := zext_mod256 _

@[simp] theorem zext_rBinSub : zext (rBinSub cIn a b) = (zext a - zext b - borrowIn cIn) % 256 := zext_mod256 _

/-- The binary difference over the raw nibbles of the decimal path (the identity behind R155 and R158). -/
theorem binDiff_eq_nibbles : binDiff cIn a b = 16 * (hiNibble a - hiNibble b) + subLo0 cIn a b := by
  unfold binDiff subLo0
  rw [zext_eq_nibbles a, zext_eq_nibbles b]
  omega

/-- The binary sum over the raw nibbles of the decimal path. -/
theorem binSum_eq_nibbles : binSum cIn a b = 16 * (hiNibble a + hiNibble b) + addLo0 cIn a b := by
  unfold binSum addLo0
  rw [zext_eq_nibbles a, zext_eq_nibbles b]
  omega

/-! ### outputOf -/

@[simp] theorem outputOf_r (r : Byte) (f : Flags) : (outputOf r f).r = r := rfl
@[simp] theorem outputOf_n (r : Byte) (f : Flags) : (outputOf r f).n = f.n := rfl
@[simp] theorem outputOf_v (r : Byte) (f : Flags) : (outputOf r f).v = f.v := rfl
@[simp] theorem outputOf_z (r : Byte) (f : Flags) : (outputOf r f).z = f.z := rfl
@[simp] theorem outputOf_cOut (r : Byte) (f : Flags) : (outputOf r f).cOut = f.c := rfl

end Sys2Proof.Machine
end

