-- ==== Sys2Proof/Laws/PerInstr.lean ====
section
/-! SUPPORT. Laws.PerInstr: what holds of each instruction as syntax. -/

namespace Sys2Proof.Laws.FixedBits

/-- The instruction's control word has its row's fixed bits, its bit 0 is its field `d`, and it is one byte long when
encoded. -/
def Statement (i : Instr) : Prop :=
  (opcodeRow i).fits (encodeCtrl i) = true ∧ (encodeCtrl i).getLsbD 0 = i.decimal ∧ (encode i).length = 1
    ∧ i.wellFormed = true

theorem adc6502 (d : Bool) : Statement (.adc6502 d) := by cases d <;> exact ⟨rfl, rfl, rfl, rfl⟩

theorem sbc6502 (d : Bool) : Statement (.sbc6502 d) := by cases d <;> exact ⟨rfl, rfl, rfl, rfl⟩

theorem adc65C02 (d : Bool) : Statement (.adc65C02 d) := by cases d <;> exact ⟨rfl, rfl, rfl, rfl⟩

theorem sbc65C02 (d : Bool) : Statement (.sbc65C02 d) := by cases d <;> exact ⟨rfl, rfl, rfl, rfl⟩

end Sys2Proof.Laws.FixedBits
end

