-- ==== Sys2Proof/Tests/Slice0.lean ====
section
/-! SUPPORT. Tests: decoded words, vectors of spec/95_test_vectors.md, one step each, and for every statement with
hypotheses a state that meets them. Expected values come from the spec's tables, named beside each test. -/

namespace Sys2Proof.Tests

open Sys2Proof Sys2Proof.Machine

/-! ### Helpers -/

/-- A state with the given C, A and operand, all else as after reset. -/
def st (c : Bool) (a b : Byte) : State := { State.reset with a := a, b := b, c := c }

/-- A state whose program is one step, which is next. -/
def one (p : ProgStep) (s : State) : State := { s with program := [p], pos := 1 }

/-- What an instruction leaves in A, N, V, Z and C, as an output vector of R66. -/
def outOf (i : Instr) (s : State) : Option (BitVec 12) :=
  match exec i s with
  | .next t => some (packOutput { r := t.a, n := t.n, v := t.v, z := t.z, cOut := t.c })
  | _ => none

/-! ### Decoding: words written out from R60, R62 and opcode_table.json -/

theorem test_decode_adc6502 : decodeCtrl 0b000#3 = .adc6502 false ∧ decodeCtrl 0b001#3 = .adc6502 true := by decide
theorem test_decode_sbc6502 : decodeCtrl 0b010#3 = .sbc6502 false ∧ decodeCtrl 0b011#3 = .sbc6502 true := by decide
theorem test_decode_adc65C02 : decodeCtrl 0b100#3 = .adc65C02 false ∧ decodeCtrl 0b101#3 = .adc65C02 true := by decide
theorem test_decode_sbc65C02 : decodeCtrl 0b110#3 = .sbc65C02 false ∧ decodeCtrl 0b111#3 = .sbc65C02 true := by decide

theorem test_decode_takes_one_byte : decode [0b00000011#8, 0xFF#8] = .ok (.sbc6502 true) [0xFF#8] := by decide
theorem test_decode_rejects_no_byte : decode [] = .rejected .noControlWord := by decide
theorem test_decode_rejects_wide_byte : decode [0b00001000#8] = .rejected (.notAControlWord 8#8) := by decide

theorem test_table_word_sbc65C02 : decodeTableWord 8 0b110 = some (.sbc65C02 false) := by decide
theorem test_table_word_three_bits : decodeTableWord 3 0b101 = some (.adc65C02 true) := by decide
theorem test_table_word_rejects : decodeTableWord 8 0b1000 = none := by decide

/-! ### Well-formedness: each check refuses an ill-formed term -/

theorem test_every_instr_well_formed : (Instr.adc6502 true).wellFormed = true := by decide
theorem test_ctrl_byte_refused : ctrlByteWellFormed 0x08#8 = false ∧ ctrlByteWellFormed 0x07#8 = true := by decide
theorem test_goto_past_end_refused : targetsOk [.consumer (.gotoIf .c false 3)] = false := by decide
theorem test_goto_zero_refused : targetsOk [.consumer (.gotoIf .c false 0)] = false := by decide
theorem test_invalid_bcd_refused : validBcd 0x9A#8 = false ∧ validBcd 0xA9#8 = false ∧ validBcd 0x99#8 = true := by
  decide
theorem test_clearing_d_refused : ProgStep.keepsDecimal (.consumer (.setD false)) = false := by decide

/-! ### Vectors of 95_test_vectors.md -/

/-- 2.1: 0x7F + 0x01, signed overflow. -/
theorem test_adc6502_binary : outOf (.adc6502 false) (st false 0x7F 0x01) = some 0xC80#12 := by decide

/-- Section 1, vector L1-1, read as conflict C2 says; 2.5: 0x99 + 0x01, N and Z not those of the result. -/
theorem test_adc6502_decimal :
    outOf (.adc6502 true) (st false 0x05 0x05) = some 0x010#12 ∧
    outOf (.adc6502 true) (st false 0x99 0x01) = some 0x900#12 := by decide

/-- 2.2: 0x00 − 0xFF with a borrow in: zero with a borrow out. -/
theorem test_sbc6502_binary : outOf (.sbc6502 false) (st false 0x00 0xFF) = some 0x200#12 := by decide

/-- Section 1, vector L1-2; 2.4: 0x20 − 0x1F without the still-negative step. -/
theorem test_sbc6502_decimal :
    outOf (.sbc6502 true) (st true 0x00 0x01) = some 0x899#12 ∧
    outOf (.sbc6502 true) (st true 0x20 0x1F) = some 0x10B#12 := by decide

/-- 2.1: the largest sum. -/
theorem test_adc65C02_binary : outOf (.adc65C02 false) (st true 0xFF 0xFF) = some 0x9FF#12 := by decide

/-- Section 1, vector L1-3; 2.3: the row of conflict C3; R133: 0xAA + 0xAA gives 0xBA. -/
theorem test_adc65C02_decimal :
    outOf (.adc65C02 true) (st false 0x9A 0x00) = some 0x300#12 ∧
    outOf (.adc65C02 true) (st false 0x00 0x7A) = some 0xC80#12 ∧
    outOf (.adc65C02 true) (st false 0xAA 0xAA) = some 0xDBA#12 := by decide

/-- 2.2: 0x80 − 0x01. -/
theorem test_sbc65C02_binary : outOf (.sbc65C02 false) (st true 0x80 0x01) = some 0x57F#12 := by decide

/-- 2.4: the still-negative step takes one from the high nibble, and wraps it to 0xF with C = 1. -/
theorem test_sbc65C02_decimal :
    outOf (.sbc65C02 true) (st true 0x00 0x0F) = some 0x88B#12 ∧
    outOf (.sbc65C02 true) (st true 0x20 0x1F) = some 0x9FB#12 := by decide

/-- R66 with the packed row of L1-2. -/
theorem test_packed_vector : aluVector 0x70001#20 = 0x899#12 := by decide

/-- R67 with the example of R183. -/
theorem test_evaluation_text :
    evaluationText { a := 0x58, b := 0x46, cIn := true, d := true, selSbc := false, sel65c02 := true }
      = "ADC_65C02 d=1 c=1 a=$58 b=$46 -> r=$05 N=0 V=1 Z=0 C=1".toList := by decide

/-! ### Steps -/

/-- The first step after reset runs the word placed there, here L1-2's control word 011 on A = 0, operand 0, C = 0:
0x00 − 0x00 with a borrow in (2.4: 0x60000 gives 0x899). -/
theorem test_first_step_after_reset :
    step (State.reset.withFetchWord 8 0b011) =
      .next { a := 0x99, b := 0, n := true, v := false, z := false, c := false, d := true, t0 := 0, t1 := 0,
              program := [.evaluate false true], pos := 2 } := by rfl

/-- 3.1: `if C == 0 goto 4` is not taken with C = 1. -/
theorem test_goto_not_taken :
    step (one (.consumer (.gotoIf .c false 4)) (st true 0 0)) =
      .next { one (.consumer (.gotoIf .c false 4)) (st true 0 0) with pos := 2 } := by rfl

/-! ### Witnesses: for each statement with hypotheses, a state and operands that meet them -/

theorem witness_StepRunsTheDecodedInstruction :
    (one (.evaluate true true) (st false 1 2)).fetch = some (.evaluate true true) ∧
    decode [(ctrlWord true true (one (.evaluate true true) (st false 1 2)).d).setWidth 8] = .ok (.sbc65C02 false) [] ∧
    (Instr.sbc65C02 false).sel65c02 = true ∧ (Instr.sbc65C02 false).selSbc = true ∧
    (one (.evaluate true true) (st false 1 2)).d = (Instr.sbc65C02 false).decimal := by decide

theorem witness_PlacedWordRunsNext : decodeTableWord 8 0b111 = some (.sbc65C02 true) := by decide

theorem witness_ConsumerActionsDoOnlyWhatTheySay :
    (one (.consumer (.setA 0xFF)) (st false 0 0)).fetch = some (.consumer (.setA 0xFF)) ∧
    (one (.consumer (.setB 0xFF)) (st false 0 0)).fetch = some (.consumer (.setB 0xFF)) ∧
    (one (.consumer (.setC true)) (st false 0 0)).fetch = some (.consumer (.setC true)) ∧
    (one (.consumer (.setD true)) (st false 0 0)).fetch = some (.consumer (.setD true)) ∧
    (one (.consumer (.saveA .t0)) (st false 1 0)).fetch = some (.consumer (.saveA .t0)) ∧
    (one (.consumer (.saveA .t1)) (st false 1 0)).fetch = some (.consumer (.saveA .t1)) ∧
    ((one (.consumer (.gotoIf .z true 1)) (st false 0 0)).fetch = some (.consumer (.gotoIf .z true 1)) ∧
      (one (.consumer (.gotoIf .z true 1)) (st false 0 0)).flag .z ≠ true) ∧
    ((one (.consumer (.gotoIf .c true 2)) (st true 0 0)).fetch = some (.consumer (.gotoIf .c true 2)) ∧
      (one (.consumer (.gotoIf .c true 2)) (st true 0 0)).flag .c = true) := by decide

theorem witness_HaltedProgramStays :
    (∃ s : State, s.pos = 0) ∧
    (one (.evaluate false false) State.reset).advance.program.length <
      (one (.evaluate false false) State.reset).advance.pos :=
  ⟨⟨State.reset.jump 0, rfl⟩, by decide⟩

theorem witness_ConsumerContract :
    (one (.evaluate false true) (st true 0x20 0x1F)).fetch = some (.evaluate false true) := by decide

/-- Two states that agree on A, the operand and C and differ in everything else. -/
theorem witness_ResultsDependOnInputsOnly :
    let s := st true 0x12 0x34
    let s' : State := { a := 0x12, b := 0x34, n := true, v := true, z := true, c := true, d := true, t0 := 1, t1 := 2,
                        program := [.evaluate true true], pos := 7 }
    s.a = s'.a ∧ s.b = s'.b ∧ s.c = s'.c ∧ s ≠ s' := by decide

theorem witness_NoStepChangesTheProgram :
    step (one (.consumer (.setA 5)) State.reset) = .next { one (.consumer (.setA 5)) State.reset with a := 5, pos := 2 } :=
  rfl

/-- Each clause's change happens: D, C, A and B by assignment, and all of C, N, V, Z and A by an evaluation. -/
theorem witness_OnlyTheseStepsChangeEachFlag :
    (∃ t, step (one (.consumer (.setD true)) State.reset) = .next t ∧ t.d ≠ State.reset.d) ∧
    (∃ t, step (one (.consumer (.setC true)) State.reset) = .next t ∧ t.c ≠ State.reset.c) ∧
    (∃ t, step (one (.consumer (.setA 1)) State.reset) = .next t ∧ t.a ≠ State.reset.a) ∧
    (∃ t, step (one (.consumer (.setB 1)) State.reset) = .next t ∧ t.b ≠ State.reset.b) ∧
    (∃ t, step (one (.evaluate false false) (st false 0x80 0x80)) = .next t ∧
      t.v ≠ (st false 0x80 0x80).v ∧ t.z ≠ (st false 0x80 0x80).z ∧ t.c ≠ (st false 0x80 0x80).c ∧
      t.a ≠ (st false 0x80 0x80).a) ∧
    ∃ t, step (one (.evaluate false false) (st false 0x7F 0x01)) = .next t ∧ t.n ≠ (st false 0x7F 0x01).n :=
  ⟨⟨_, rfl, by decide⟩, ⟨_, rfl, by decide⟩, ⟨_, rfl, by decide⟩, ⟨_, rfl, by decide⟩, ⟨_, rfl, by decide⟩,
    ⟨_, rfl, by decide⟩⟩

theorem witness_BinaryAddZeroRoundTrip : (st false 0x80 0x00).c = false ∧ (st false 0x80 0x00).b = 0 := by decide

theorem witness_ValidBcdIsDecimalArithmetic :
    validBcd (st true 0x99 0x00).a = true ∧ validBcd (st true 0x99 0x00).b = true := by decide

theorem witness_DecimalSubVariantsDifferIffStillNegative :
    sub65C02Lsn true 0x00 0x0F = true ∧ sub65C02Lsn true 0x00 0x0A = false ∧ sub65C02Lsn true 0x00 0x0B = true := by decide

/-- Both clauses: states that agree in one lane and differ in the other. -/
theorem witness_LanesPassOnlyLowToHigh :
    ((Instr.sbc65C02 true).decimal = true ∧ loNibble (st true 0x15 0x27).a = loNibble (st true 0x95 0xF7).a ∧
      loNibble (st true 0x15 0x27).b = loNibble (st true 0x95 0xF7).b) ∧
    (hiNibble (st true 0x15 0x27).a = hiNibble (st true 0x14 0x29).a ∧
      hiNibble (st true 0x15 0x27).b = hiNibble (st true 0x14 0x29).b ∧
      subBlo true 0x15 0x27 = subBlo true 0x14 0x29 ∧
      sub65C02Lsn true 0x15 0x27 = sub65C02Lsn true 0x14 0x29 ∧
      addClo true 0x15 0x27 = addClo true 0x14 0x29) := by decide

theorem witness_ZeroFlagAndResult :
    ((st false 0x99 0x01).a = 0x99#8 ∧ (st false 0x99 0x01).b = 0x01#8 ∧ (st false 0x99 0x01).c = false) ∧
    ((st false 0x00 0x99).a = 0x00#8 ∧ (st false 0x00 0x99).b = 0x99#8 ∧ (st false 0x00 0x99).c = false) := by decide

/-- Bytes that decode, a list of bytes that decodes, and a byte that does not (8 is the least). -/
theorem witness_DecodeInvertsEncode :
    decode [0x07#8, 0xAB#8] = .ok (.sbc65C02 true) [0xAB#8] ∧
    decodeAll [0x01#8, 0x06#8] = some [.adc6502 true, .sbc65C02 false] ∧ 8 ≤ (0x08#8).toNat := by decide

/-- At a goto that is taken to just past the last step, the boundary of its range. -/
theorem witness_StepKeepsPositionInProgram :
    (one (.consumer (.gotoIf .d false 2)) State.reset).Inv ∧
    step (one (.consumer (.gotoIf .d false 2)) State.reset) =
      .next { one (.consumer (.gotoIf .d false 2)) State.reset with pos := 2 } :=
  ⟨⟨by decide, by decide, by decide⟩, rfl⟩

/-- In decimal mode, at an evaluation whose digits are the largest. -/
theorem witness_StepKeepsDecimalDataValid :
    (one (.evaluate true false) { st true 0x99 0x99 with d := true }).DecimalInv ∧
    ∃ t, step (one (.evaluate true false) { st true 0x99 0x99 with d := true }) = .next t :=
  ⟨⟨by decide, by decide, by decide, by decide, by decide, by decide⟩, ⟨_, rfl⟩⟩

theorem witness_DecimalResetIsValid :
    ∃ p : ConsumerResetFlags, p.d = true ∧ validBcd p.a = true :=
  ⟨{ Config.consumerReset with d := true, a := 0x99 }, by decide, by decide⟩

theorem witness_ChainedDecimalAddIsMultiDigitAdd :
    ∀ p ∈ [((0x99#8 : Byte), (0x01#8 : Byte)), (0x19#8, 0x00#8)], validBcd p.1 = true ∧ validBcd p.2 = true := by
  intro p hp
  simp only [List.mem_cons, List.not_mem_nil, or_false] at hp
  rcases hp with rfl | rfl <;> decide

theorem witness_ChainedDecimalSubIsMultiDigitSub :
    ∀ p ∈ [((0x00#8 : Byte), (0x01#8 : Byte)), (0x00#8, 0x99#8)], validBcd p.1 = true ∧ validBcd p.2 = true := by
  intro p hp
  simp only [List.mem_cons, List.not_mem_nil, or_false] at hp
  rcases hp with rfl | rfl <;> decide

/-- The instructions that the statements over two or more instructions range over (BinaryAddResultAndFlags,
BinarySubResultAndFlags, BinaryAddCommutesSubDoesNot, DecimalAddCommutes, ZeroFlagAndResult and the four chains):
each alternative of their hypotheses is met by an instruction. -/
theorem witness_InstructionChoices :
    (∃ i : Instr, i = .adc6502 false ∨ i = .adc65C02 false) ∧ (∃ i : Instr, i = .sbc6502 false ∨ i = .sbc65C02 false) ∧
    (∃ i : Instr, i = .adc6502 true ∨ i = .adc65C02 true) ∧ (∃ i : Instr, i = .sbc6502 true ∨ i = .sbc65C02 true) :=
  ⟨⟨_, .inl rfl⟩, ⟨_, .inr rfl⟩, ⟨_, .inl rfl⟩, ⟨_, .inr rfl⟩⟩

end Sys2Proof.Tests
end

section
/-! PROOFS. Scope: which operation the core's two select bits choose (R6, R61), and the two readings of R8. -/

namespace Sys2Proof.Machine

section
variable (d cIn : Bool) (a b : Byte)

@[simp] theorem alu_adc6502_select :
    alu { a := a, b := b, cIn := cIn, d := d, selSbc := false, sel65c02 := false } = adc6502 d cIn a b := rfl

@[simp] theorem alu_sbc6502_select :
    alu { a := a, b := b, cIn := cIn, d := d, selSbc := true, sel65c02 := false } = sbc6502 d cIn a b := rfl

@[simp] theorem alu_adc65C02_select :
    alu { a := a, b := b, cIn := cIn, d := d, selSbc := false, sel65c02 := true } = adc65C02 d cIn a b := rfl

@[simp] theorem alu_sbc65C02_select :
    alu { a := a, b := b, cIn := cIn, d := d, selSbc := true, sel65c02 := true } = sbc65C02 d cIn a b := rfl

end

/-- Settles O15, by cases on the operation: each variant's parameter picks the operation its select bits pick. -/
theorem variantParameterAgreesWithSelectBit : Obligations.VariantParameterAgreesWithSelectBit := by
  intro op d cIn a b
  cases op with
  | adc => exact ⟨(alu_adc6502_select d cIn a b).symm, (alu_adc65C02_select d cIn a b).symm⟩
  | sbc => exact ⟨(alu_sbc6502_select d cIn a b).symm, (alu_sbc65C02_select d cIn a b).symm⟩

end Sys2Proof.Machine
end

section
/-! PROOFS. Encoding: the fields of the control word (R60), what each control word runs (R62, R180), and the layout of
the packed vectors (R66). -/

namespace Sys2Proof

/-! ### The control word -/

section
variable (w : Ctrl)

@[simp] theorem decodeCtrl_sel65c02 : (decodeCtrl w).sel65c02 = w.getLsbD 2 := by
  unfold decodeCtrl
  split <;> exact Eq.symm ‹w.getLsbD 2 = _›

@[simp] theorem decodeCtrl_selSbc : (decodeCtrl w).selSbc = w.getLsbD 1 := by
  unfold decodeCtrl
  split <;> exact Eq.symm ‹w.getLsbD 1 = _›

@[simp] theorem decodeCtrl_decimal : (decodeCtrl w).decimal = w.getLsbD 0 := by
  unfold decodeCtrl
  split <;> rfl

end

namespace Machine

section
variable (s : State) (x y : Bool)

@[simp] theorem State.issue_sel65c02 : (s.issue x y).sel65c02 = x :=
  (decodeCtrl_sel65c02 _).trans (ctrlWord_sel65c02 x y s.d)

@[simp] theorem State.issue_selSbc : (s.issue x y).selSbc = y :=
  (decodeCtrl_selSbc _).trans (ctrlWord_selSbc x y s.d)

@[simp] theorem State.issue_decimal : (s.issue x y).decimal = s.d :=
  (decodeCtrl_decimal _).trans (ctrlWord_decimal x y s.d)

end

/-- Settles O2: a field of the decoded instruction is the bit the decoder's match reads, and an issued word is made of
the step's select bits and the D flag. -/
theorem controlWordFields : Obligations.ControlWordFields :=
  ⟨fun w => ⟨decodeCtrl_sel65c02 w, decodeCtrl_selSbc w, decodeCtrl_decimal w⟩,
    fun x y d => ⟨ctrlWord_sel65c02 x y d, ctrlWord_selSbc x y d, ctrlWord_decimal x y d⟩,
    fun s x y => ⟨s.issue_sel65c02 x y, s.issue_selSbc x y, s.issue_decimal x y⟩⟩

/-! ### What each control word runs -/

/-- The eight control words in the order of R62's table. -/
theorem decodeCtrl_table :
    decodeCtrl 0b000#3 = .adc6502 false ∧ decodeCtrl 0b001#3 = .adc6502 true ∧
    decodeCtrl 0b010#3 = .sbc6502 false ∧ decodeCtrl 0b011#3 = .sbc6502 true ∧
    decodeCtrl 0b100#3 = .adc65C02 false ∧ decodeCtrl 0b101#3 = .adc65C02 true ∧
    decodeCtrl 0b110#3 = .sbc65C02 false ∧ decodeCtrl 0b111#3 = .sbc65C02 true :=
  ⟨decodeCtrl_ctrlWord_adc6502 false, decodeCtrl_ctrlWord_adc6502 true,
    decodeCtrl_ctrlWord_sbc6502 false, decodeCtrl_ctrlWord_sbc6502 true,
    decodeCtrl_ctrlWord_adc65C02 false, decodeCtrl_ctrlWord_adc65C02 true,
    decodeCtrl_ctrlWord_sbc65C02 false, decodeCtrl_ctrlWord_sbc65C02 true⟩

section
variable (s : State)

/-- Binary mode does not look at the variant (R62): addition. -/
theorem exec_adc65C02_binary : exec (.adc65C02 false) s = exec (.adc6502 false) s := by
  rw [exec_adc65C02, exec_adc6502, adc65C02_false, adc6502_false]

/-- Binary mode does not look at the variant (R62): subtraction. -/
theorem exec_sbc65C02_binary : exec (.sbc65C02 false) s = exec (.sbc6502 false) s := by
  rw [exec_sbc65C02, exec_sbc6502, sbc65C02_false, sbc6502_false]

end

/-- Settles O4: each word decodes to its row of the table; `d` then picks the engine of that operation, and in binary
mode the engines of the two variants are one. -/
theorem eachControlWordSelectsItsEngine : Obligations.EachControlWordSelectsItsEngine := by
  refine ⟨decodeCtrl_table, fun s => ?_⟩
  obtain ⟨h0, h1, h2, h3, h4, h5, h6, h7⟩ := decodeCtrl_table
  rw [h0, h1, h2, h3, h4, h5, h6, h7]
  refine ⟨?_, ?_, ?_, ?_, exec_adc65C02_binary s, ?_, exec_sbc65C02_binary s, ?_⟩
  · rw [exec_adc6502, adc6502_false, addWithCarry]
  · rw [exec_adc6502, adc6502_true, addDecimal6502]
  · rw [exec_sbc6502, sbc6502_false, subWithCarry]
  · rw [exec_sbc6502, sbc6502_true, subDecimal6502]
  · rw [exec_adc65C02, adc65C02_true, addDecimal65C02]
  · rw [exec_sbc65C02, sbc65C02_true, subDecimal65C02]

/-! ### The packed input vector -/

/-- The three highest fields of the input vector are a control word (R66, R60). -/
theorem packInput_eq (x : Input) :
    packInput x = ctrlWord x.sel65c02 x.selSbc x.d ++ BitVec.ofBool x.cIn ++ x.a ++ x.b := rfl

section
variable (x : Input)

theorem packInput_b : (packInput x).extractLsb' 0 8 = x.b :=
  BitVec.extractLsb'_append_eq_right

theorem packInput_a : (packInput x).extractLsb' 8 8 = x.a := by
  rw [packInput_eq, BitVec.extractLsb'_append_eq_of_le (by decide)]
  exact BitVec.extractLsb'_append_eq_right

theorem packInput_cIn : (packInput x).getLsbD 16 = x.cIn := by
  rw [packInput_eq, BitVec.getLsbD_append, BitVec.getLsbD_append, BitVec.getLsbD_append]
  simp

theorem packInput_ctrl : (packInput x).extractLsb' 17 3 = ctrlWord x.sel65c02 x.selSbc x.d := by
  rw [packInput_eq, BitVec.extractLsb'_append_eq_of_le (by decide), BitVec.extractLsb'_append_eq_of_le (by decide)]
  exact BitVec.extractLsb'_append_eq_left

/-- The bits above `c_in` are those of the control word. -/
theorem packInput_ctrl_bit {k : Nat} (hk : k < 3) :
    (packInput x).getLsbD (17 + k) = (ctrlWord x.sel65c02 x.selSbc x.d).getLsbD k := by
  rw [← packInput_ctrl, BitVec.getLsbD_extractLsb']
  simp [hk]

theorem packInput_sel65c02 : (packInput x).getLsbD 19 = x.sel65c02 :=
  (packInput_ctrl_bit x (k := 2) (by decide)).trans (ctrlWord_sel65c02 _ _ _)

theorem packInput_selSbc : (packInput x).getLsbD 18 = x.selSbc :=
  (packInput_ctrl_bit x (k := 1) (by decide)).trans (ctrlWord_selSbc _ _ _)

theorem packInput_d : (packInput x).getLsbD 17 = x.d :=
  (packInput_ctrl_bit x (k := 0) (by decide)).trans (ctrlWord_decimal _ _ _)

@[simp] theorem unpackInput_packInput : unpackInput (packInput x) = x := by
  rw [unpackInput, packInput_sel65c02, packInput_selSbc, packInput_d, packInput_cIn, packInput_a, packInput_b]

end

/-- A bit as a field of its own, in the form in which neighbouring fields join. -/
theorem ofBool_getLsbD {n : Nat} (w : BitVec n) (k : Nat) : BitVec.ofBool (w.getLsbD k) = w.extractLsb' k 1 := by
  ext i hi
  simp [show i = 0 by omega]

/-- The six fields cover the vector without a gap: joined again, each with the one below it, they are all of it. -/
@[simp] theorem packInput_unpackInput (w : BitVec 20) : packInput (unpackInput w) = w := by
  simp only [packInput, unpackInput, ofBool_getLsbD,
    BitVec.extractLsb'_append_extractLsb'_eq_extractLsb' (w := 20), Nat.reduceAdd, BitVec.extractLsb'_eq_self]

@[simp] theorem aluVector_packInput (x : Input) : aluVector (packInput x) = packOutput (alu x) := by
  rw [aluVector, unpackInput_packInput]

/-! ### The packed output vector -/

section
variable (o : Output)

theorem packOutput_r : (packOutput o).extractLsb' 0 8 = o.r :=
  BitVec.extractLsb'_append_eq_right

theorem packOutput_cOut : (packOutput o).getLsbD 8 = o.cOut := by
  rw [packOutput, BitVec.getLsbD_append, BitVec.getLsbD_append]
  simp

theorem packOutput_z : (packOutput o).getLsbD 9 = o.z := by
  rw [packOutput, BitVec.getLsbD_append, BitVec.getLsbD_append, BitVec.getLsbD_append]
  simp

theorem packOutput_v : (packOutput o).getLsbD 10 = o.v := by
  rw [packOutput, BitVec.getLsbD_append, BitVec.getLsbD_append, BitVec.getLsbD_append, BitVec.getLsbD_append]
  simp

theorem packOutput_n : (packOutput o).getLsbD 11 = o.n := by
  rw [packOutput, BitVec.getLsbD_append, BitVec.getLsbD_append, BitVec.getLsbD_append, BitVec.getLsbD_append]
  simp

@[simp] theorem unpackOutput_packOutput : unpackOutput (packOutput o) = o := by
  rw [unpackOutput, packOutput_n, packOutput_v, packOutput_z, packOutput_cOut, packOutput_r]

end

/-- Settles O37: each field is read off the concatenation; so unpacking gives the fields back, and the core sees the
same evaluation. -/
theorem packedVectorLayout : Obligations.PackedVectorLayout :=
  ⟨fun x => ⟨packInput_sel65c02 x, packInput_selSbc x, packInput_d x, packInput_cIn x, packInput_a x, packInput_b x,
      packInput_ctrl x, unpackInput_packInput x⟩,
    fun o => ⟨packOutput_n o, packOutput_v o, packOutput_z o, packOutput_cOut o, packOutput_r o,
      unpackOutput_packOutput o⟩,
    packInput_unpackInput, aluVector_packInput⟩

end Machine
end Sys2Proof
end

section
/-! PROOFS. BinaryMode: what binary ADC and SBC leave (R100, R101, R151, R152), SBC as ADC of the inverted operand
(R102), one engine for both variants (R103), and commutativity (R105). -/

namespace Sys2Proof.Machine

/-! ### A write back and the binary instructions -/

/-- The frame of the consumer contract (R185). -/
theorem writeBack_onlyResultChanged (s : State) (o : Output) : OnlyResultChanged s (s.writeBack o) :=
  ⟨rfl, rfl, rfl, rfl, rfl, rfl⟩

/-- Binary ADC of either variant runs the one adder (R103). -/
theorem exec_binary_adc {i : Instr} (hi : i = .adc6502 false ∨ i = .adc65C02 false) (s : State) :
    exec i s = .next (s.writeBack (addWithCarry s.c s.a s.b)) := by
  rcases hi with rfl | rfl
  · rw [exec_adc6502, adc6502_false]
  · rw [exec_adc65C02, adc65C02_false]

/-- Binary SBC of either variant runs the one subtractor (R103). -/
theorem exec_binary_sbc {i : Instr} (hi : i = .sbc6502 false ∨ i = .sbc65C02 false) (s : State) :
    exec i s = .next (s.writeBack (subWithCarry s.c s.a s.b)) := by
  rcases hi with rfl | rfl
  · rw [exec_sbc6502, sbc6502_false]
  · rw [exec_sbc65C02, sbc65C02_false]

/-! ### The V terms as Boolean functions (R151, R152) -/

section
variable (sa sb ref : Bool)

theorem overflowAdd_iff : overflowAdd sa sb ref = true ↔ sa ≠ ref ∧ sb ≠ ref := by
  rw [overflowAdd, Bool.and_eq_true, bne_iff_ne, bne_iff_ne]

theorem overflowAdd_comm : overflowAdd sa sb ref = overflowAdd sb sa ref := Bool.and_comm _ _

/-- Complementing the operand's sign turns the V term of addition into that of subtraction (conflict C4). -/
theorem overflowAdd_not : overflowAdd sa (!sb) ref = overflowSub sa sb ref := rfl

/-- The two spellings of the V term of subtraction (R152). -/
theorem overflowSub_eq : overflowSub sa sb ref = ((sa ^^ sb) && (sa ^^ ref)) := by
  cases sa <;> cases sb <;> cases ref <;> rfl

end

/-! ### The datapaths over natural numbers -/

theorem bitVal_eq_toNat (c : Bool) : bitVal c = (c.toNat : Int) := by cases c <;> rfl

theorem borrowIn_eq_toNat (c : Bool) : borrowIn c = ((1 - c.toNat : Nat) : Int) := by cases c <;> rfl

section
variable (cIn : Bool) (a b : Byte)

theorem binSum_eq_toNat : binSum cIn a b = ((a.toNat + b.toNat + cIn.toNat : Nat) : Int) := by
  simp [binSum, zext, bitVal_eq_toNat]

theorem toNat_rBinAdd : (rBinAdd cIn a b).toNat = (a.toNat + b.toNat + cIn.toNat) % 256 := by
  have h : zext (rBinAdd cIn a b) = binSum cIn a b % 256 := zext_mod256 _
  rw [binSum_eq_toNat, zext] at h
  exact_mod_cast h

theorem cBinAdd_eq_toNat : cBinAdd cIn a b = decide (0x100 ≤ a.toNat + b.toNat + cIn.toNat) := by
  rw [cBinAdd, binSum_eq_toNat, decide_eq_decide]
  omega

theorem toNat_rBinSub : ((rBinSub cIn a b).toNat : Int) = ((a.toNat : Int) - b.toNat - (1 - cIn.toNat)) % 256 := by
  have h : zext (rBinSub cIn a b) = (zext a - zext b - (1 - bitVal cIn)) % 256 := zext_rBinSub cIn a b
  rwa [bitVal_eq_toNat] at h

theorem cBinSub_eq_toNat : cBinSub cIn a b = decide (b.toNat + (1 - cIn.toNat) ≤ a.toNat) := by
  rw [cBinSub, borrowIn_eq_toNat, zext, zext, decide_eq_decide]
  omega

/-! ### V is signed overflow -/

/-- V of binary addition says that the sum of the signed values leaves −128..127 (R151): the operands have one sign and
the wrapped sum the other. -/
theorem overflowAdd_signBit_iff :
    overflowAdd (signBit a) (signBit b) (signBit (rBinAdd cIn a b)) = true ↔
      sext a + sext b + bitVal cIn < -128 ∨ 127 < sext a + sext b + bitVal cIn := by
  have ha := zext_bounds a
  have hb := zext_bounds b
  have hc := bitVal_bounds cIn
  rw [overflowAdd_iff, signBit_eq, signBit_eq, signBit_eq, ne_eq, ne_eq, decide_eq_decide, decide_eq_decide,
    zext_rBinAdd, sext_eq, sext_eq]
  split <;> split <;> omega

/-! ### Subtraction is addition of the inverted operand (R102) -/

theorem toNat_inverted : (b ^^^ 0xFF#8).toNat = 255 - b.toNat := by
  rw [show b ^^^ 0xFF#8 = ~~~b from BitVec.xor_allOnes, BitVec.toNat_not]

theorem zext_inverted : zext (b ^^^ 0xFF#8) = 255 - zext b := by
  have := b.isLt
  rw [zext, zext, toNat_inverted]
  omega

theorem signBit_inverted : signBit (b ^^^ 0xFF#8) = !signBit b := by
  rw [signBit_eq, signBit_eq, zext_inverted, ← decide_not, decide_eq_decide]
  omega

theorem sext_inverted : sext (b ^^^ 0xFF#8) = -1 - sext b := by
  have := zext_bounds b
  rw [sext_eq, sext_eq, zext_inverted]
  split <;> split <;> omega

/-- R102's identity: the two agree mod 256, and the sum reaches 256 exactly when the difference is not negative. -/
theorem binSum_inverted : binSum cIn a (b ^^^ 0xFF#8) = binDiff cIn a b + 256 := by
  rw [binSum, binDiff, zext_inverted, borrowIn]
  omega

theorem rBinSub_eq_rBinAdd : rBinSub cIn a b = rBinAdd cIn a (b ^^^ 0xFF#8) := by
  rw [rBinSub, rBinAdd, binSum_inverted, mod256_eq_iff]
  omega

theorem cBinSub_eq_cBinAdd : cBinSub cIn a b = cBinAdd cIn a (b ^^^ 0xFF#8) := by
  rw [cBinSub, cBinAdd, binSum_inverted, binDiff, decide_eq_decide]
  omega

theorem subWithCarry_eq_addWithCarry : subWithCarry cIn a b = addWithCarry cIn a (b ^^^ 0xFF#8) := by
  rw [subWithCarry, addWithCarry, flagsBinSub, flagsBinAdd, ← rBinSub_eq_rBinAdd, ← cBinSub_eq_cBinAdd,
    signBit_inverted, overflowAdd_not]

/-- V of binary subtraction says that the difference of the signed values leaves −128..127 (R152). -/
theorem overflowSub_signBit_iff :
    overflowSub (signBit a) (signBit b) (signBit (rBinSub cIn a b)) = true ↔
      sext a - sext b - borrowIn cIn < -128 ∨ 127 < sext a - sext b - borrowIn cIn := by
  have h := overflowAdd_signBit_iff cIn a (b ^^^ 0xFF#8)
  have hdiff : sext a + (-1 - sext b) + bitVal cIn = sext a - sext b - borrowIn cIn := by
    rw [borrowIn]
    omega
  rwa [← rBinSub_eq_rBinAdd, signBit_inverted, overflowAdd_not, sext_inverted, hdiff] at h

end

/-! ### Commutativity of addition (R105) -/

section
variable (cIn : Bool) (a b : Byte)

theorem binSum_comm : binSum cIn a b = binSum cIn b a := by
  rw [binSum, binSum, Int.add_comm (zext a)]

theorem addWithCarry_comm : addWithCarry cIn a b = addWithCarry cIn b a := by
  simp only [addWithCarry, flagsBinAdd, rBinAdd, cBinAdd, binSum_comm cIn a b, overflowAdd_comm (signBit a)]

end

/-! ### The statements -/

/-- Settles O16: the adder's result and carry over natural numbers, and its V term as signed overflow. -/
theorem binaryAddResultAndFlags : Obligations.BinaryAddResultAndFlags := by
  intro i hi s
  refine ⟨_, exec_binary_adc hi s, toNat_rBinAdd _ _ _, cBinAdd_eq_toNat _ _ _, rfl, rfl, rfl, ?_,
    writeBack_onlyResultChanged _ _⟩
  rw [← bitVal_eq_toNat]
  exact overflowAdd_signBit_iff s.c s.a s.b

/-- Settles O17: the subtractor's result and carry over natural numbers, its V term in both spellings and as signed
overflow, which is that of adding the inverted operand. -/
theorem binarySubResultAndFlags : Obligations.BinarySubResultAndFlags := by
  intro i hi s
  refine ⟨_, exec_binary_sbc hi s, toNat_rBinSub _ _ _, cBinSub_eq_toNat _ _ _, rfl, rfl, rfl, overflowSub_eq _ _ _, ?_,
    writeBack_onlyResultChanged _ _⟩
  rw [← bitVal_eq_toNat]
  exact overflowSub_signBit_iff s.c s.a s.b

/-- Settles O18: the subtractor is the adder of the inverted operand, so all outputs agree. -/
theorem binarySubIsAddOfInvertedOperand : Obligations.BinarySubIsAddOfInvertedOperand := by
  intro s
  refine ⟨_, _, exec_binary_sbc (.inl rfl) s, exec_binary_adc (.inl rfl) _, toNat_inverted s.b, ?_⟩
  rw [subWithCarry_eq_addWithCarry]
  exact ⟨rfl, rfl, rfl, rfl, rfl⟩

/-- Settles O20: the adder is symmetric in its operands; with C set, 1 − 0 is 1 and 0 − 1 is 0xFF. -/
theorem binaryAddCommutesSubDoesNot : Obligations.BinaryAddCommutesSubDoesNot := by
  constructor
  · intro i hi s
    refine ⟨_, _, exec_binary_adc hi s, exec_binary_adc hi _, ?_⟩
    rw [addWithCarry_comm]
    exact ⟨rfl, rfl, rfl, rfl, rfl⟩
  · intro i hi
    refine ⟨{ State.reset with a := 1, c := true }, _, _, exec_binary_sbc hi _, exec_binary_sbc hi _, ?_⟩
    decide

/-- Settles O19: in binary mode each pair of instructions runs one engine. -/
theorem variantsShareTheBinaryEngine : Obligations.VariantsShareTheBinaryEngine :=
  fun s => ⟨(exec_adc65C02_binary s).symm, (exec_sbc65C02_binary s).symm⟩

end Sys2Proof.Machine
end

section
/-! PROOFS. DecimalMode: the signals of the decimal datapaths as case splits in integers (R120, R121, R124, R125, R127,
R128), their ranges (R130), and what decimal ADC and SBC leave (R120–R129, R153, R154, R156, R157). -/

namespace Sys2Proof.Machine

/-! ### Fields and bits as numbers -/

theorem loNibble_eq_toNat (x : Byte) : loNibble x = ((x.toNat % 16 : Nat) : Int) := loNibble_eq x

theorem hiNibble_eq_toNat (x : Byte) : hiNibble x = ((x.toNat / 16 : Nat) : Int) := hiNibble_eq x

theorem borrowIn_eq (c : Bool) : borrowIn c = 1 - (c.toNat : Int) := by rw [borrowIn, bitVal_eq_toNat]

@[simp] theorem bitVal_decide (p : Prop) [Decidable p] : bitVal (decide p) = if p then 1 else 0 := by simp [bitVal]

theorem beq_zero_eq_toNat (x : Byte) : (x == 0) = decide (x.toNat = 0) := by
  rw [beq_zero_eq, decide_eq_decide]
  exact Int.natCast_eq_zero

theorem intBit_three_natCast (n : Nat) : intBit 3 (n : Int) = n.testBit 3 := by
  rw [intBit_three, Nat.testBit_eq_decide_div_mod_eq, decide_eq_decide]
  omega

section
variable (cIn : Bool) (a b : Byte)

/-! ### Addition: the two lanes over natural numbers (R120, R121) -/

/-- The correction of one lane of decimal addition: a digit above 9 is taken back by 10, in four bits. -/
def addCorrect (n : Nat) : Nat := if 9 < n then (n - 10) % 16 else n

/-- `lo0` as a natural number. -/
def addLo0Nat : Nat := a.toNat % 16 + b.toNat % 16 + cIn.toNat

/-- `hi0` as a natural number. -/
def addHi0Nat : Nat := a.toNat / 16 + b.toNat / 16 + (if 9 < addLo0Nat cIn a b then 1 else 0)

theorem addLo0_eq_addLo0Nat : addLo0 cIn a b = addLo0Nat cIn a b := by
  rw [addLo0, addLo0Nat, loNibble_eq_toNat, loNibble_eq_toNat, bitVal_eq_toNat]
  push_cast
  rfl

theorem addClo_eq_addLo0Nat : addClo cIn a b = decide (9 < addLo0Nat cIn a b) := by
  rw [addClo, addLo0_eq_addLo0Nat, decide_eq_decide]
  omega

theorem addHi0_eq_addHi0Nat : addHi0 cIn a b = addHi0Nat cIn a b := by
  rw [addHi0, addHi0Nat, hiNibble_eq_toNat, hiNibble_eq_toNat, addClo_eq_addLo0Nat, bitVal_decide]
  push_cast
  rfl

theorem addChi_eq_addHi0Nat : addChi cIn a b = decide (9 < addHi0Nat cIn a b) := by
  rw [addChi, addHi0_eq_addHi0Nat, decide_eq_decide]
  omega

theorem natCast_addCorrect (n : Nat) :
    ((addCorrect n : Nat) : Int) = if decide (9 < n) = true then ((n : Int) - 10) % 16 else n := by
  simp only [addCorrect, decide_eq_true_eq]
  split <;> omega

theorem addLo_eq_addCorrect : addLo cIn a b = addCorrect (addLo0Nat cIn a b) := by
  rw [addLo, addClo_eq_addLo0Nat, addLo0_eq_addLo0Nat, natCast_addCorrect]

theorem addHi_eq_addCorrect : addHi cIn a b = addCorrect (addHi0Nat cIn a b) := by
  rw [addHi, addChi_eq_addHi0Nat, addHi0_eq_addHi0Nat, natCast_addCorrect]

/-- R122, R123: the byte of the two corrected nibbles. -/
theorem toNat_rDecAdd :
    (rDecAdd cIn a b).toNat = 16 * addCorrect (addHi0Nat cIn a b) + addCorrect (addLo0Nat cIn a b) := by
  have h := zext_eq_nibbles (rDecAdd cIn a b)
  rw [rDecAdd_hi, rDecAdd_lo, addHi_eq_addCorrect, addLo_eq_addCorrect, zext] at h
  exact_mod_cast h

theorem intBit_three_addHi0 : intBit 3 (addHi0 cIn a b) = (addHi0Nat cIn a b).testBit 3 := by
  rw [addHi0_eq_addHi0Nat, intBit_three_natCast]

/-- V of both decimal additions, from bit 3 of the pre-correction high nibble (R153, R156). -/
theorem overflowAdd_addHi0 :
    overflowAdd (signBit a) (signBit b) (intBit 3 (addHi0 cIn a b)) =
      ((a.getLsbD 7 ^^ (addHi0Nat cIn a b).testBit 3) && (b.getLsbD 7 ^^ (addHi0Nat cIn a b).testBit 3)) := by
  rw [intBit_three_addHi0]
  rfl

/-- Z of the 6502's decimal addition, from the binary sum (R153). -/
theorem rBinAdd_beq_zero : (rBinAdd cIn a b == 0) = decide ((a.toNat + b.toNat + cIn.toNat) % 256 = 0) := by
  rw [beq_zero_eq_toNat, toNat_rBinAdd]

/-! ### Subtraction: the signals as case splits (R124, R125, R127–R129) -/

theorem subHi0_eq : subHi0 cIn a b = hiNibble a - hiNibble b - (if subLo0 cIn a b < 0 then 1 else 0) := by
  rw [subHi0, subBlo, bitVal_decide]

theorem sub6502Lo_eq :
    sub6502Lo cIn a b = if subLo0 cIn a b < 0 then (subLo0 cIn a b + 10) % 16 else subLo0 cIn a b := by
  simp only [sub6502Lo, subBlo, decide_eq_true_eq]

theorem sub6502Hi_eq :
    sub6502Hi cIn a b = if subHi0 cIn a b < 0 then (subHi0 cIn a b + 10) % 16 else subHi0 cIn a b := by
  simp only [sub6502Hi, subBhi, decide_eq_true_eq]

theorem sub65C02Lo1_eq :
    sub65C02Lo1 cIn a b = if subLo0 cIn a b < 0 then subLo0 cIn a b + 10 else subLo0 cIn a b := by
  simp only [sub65C02Lo1, subBlo, decide_eq_true_eq]

theorem sub65C02Hi1_eq :
    sub65C02Hi1 cIn a b = if subHi0 cIn a b < 0 then subHi0 cIn a b + 10 else subHi0 cIn a b := by
  simp only [sub65C02Hi1, subBhi, decide_eq_true_eq]

theorem bitVal_sub65C02Lsn : bitVal (sub65C02Lsn cIn a b) = if sub65C02Lo1 cIn a b < 0 then 1 else 0 := bitVal_decide _

theorem zext_rDecSub6502 : zext (rDecSub6502 cIn a b) = 16 * sub6502Hi cIn a b + sub6502Lo cIn a b := by
  rw [zext_eq_nibbles, rDecSub6502_hi, rDecSub6502_lo]

theorem zext_rDecSub65C02 : zext (rDecSub65C02 cIn a b) = 16 * sub65C02Hi cIn a b + sub65C02Lo cIn a b := by
  rw [zext_eq_nibbles, rDecSub65C02_hi, rDecSub65C02_lo]

/-! ### Ranges (R130) -/

theorem addLo0_bounds : 0 ≤ addLo0 cIn a b ∧ addLo0 cIn a b ≤ 31 := by
  have := loNibble_bounds a
  have := loNibble_bounds b
  have := bitVal_bounds cIn
  rw [addLo0]
  omega

theorem addHi0_bounds : 0 ≤ addHi0 cIn a b ∧ addHi0 cIn a b ≤ 31 := by
  have := hiNibble_bounds a
  have := hiNibble_bounds b
  have := bitVal_bounds (addClo cIn a b)
  rw [addHi0]
  omega

theorem subLo0_bounds : -16 ≤ subLo0 cIn a b ∧ subLo0 cIn a b ≤ 15 := by
  have := loNibble_bounds a
  have := loNibble_bounds b
  have := borrowIn_bounds cIn
  rw [subLo0]
  omega

theorem subHi0_bounds : -16 ≤ subHi0 cIn a b ∧ subHi0 cIn a b ≤ 15 := by
  have := hiNibble_bounds a
  have := hiNibble_bounds b
  have := bitVal_bounds (subBlo cIn a b)
  rw [subHi0]
  omega

theorem sub65C02Lo1_bounds : -6 ≤ sub65C02Lo1 cIn a b ∧ sub65C02Lo1 cIn a b ≤ 15 := by
  have := subLo0_bounds cIn a b
  rw [sub65C02Lo1_eq]
  split <;> omega

theorem sub65C02Hi1_bounds : -6 ≤ sub65C02Hi1 cIn a b ∧ sub65C02Hi1 cIn a b ≤ 15 := by
  have := subHi0_bounds cIn a b
  rw [sub65C02Hi1_eq]
  split <;> omega

end

/-- Settles O28: the raw nibbles are sums and differences of nibbles and a bit; a negative one is corrected by 10, and
`lsn` takes at most 1 away. -/
theorem decimalIntermediateRanges : Obligations.DecimalIntermediateRanges := by
  intro cIn a b
  refine ⟨addLo0_bounds cIn a b, addHi0_bounds cIn a b, subLo0_bounds cIn a b, subHi0_bounds cIn a b,
    sub65C02Lo1_bounds cIn a b, sub65C02Hi1_bounds cIn a b, ?_⟩
  have hhi := sub65C02Hi1_bounds cIn a b
  have hlsn := bitVal_bounds (sub65C02Lsn cIn a b)
  omega

/-! ### Each operation -/

/-- Settles O22: the corrected sum of the two lanes, N and V of the high lane before its correction, and Z of the binary
sum. -/
theorem decimalAdd6502ResultAndFlags : Obligations.DecimalAdd6502ResultAndFlags := fun s =>
  ⟨_, exec_adc6502 true s, toNat_rDecAdd _ _ _, addChi_eq_addHi0Nat _ _ _, intBit_three_addHi0 _ _ _,
    overflowAdd_addHi0 _ _ _, rBinAdd_beq_zero _ _ _, writeBack_onlyResultChanged _ _⟩

/-- Settles O23: as on the 6502, but N and Z are those of the result. -/
theorem decimalAdd65C02ResultAndFlags : Obligations.DecimalAdd65C02ResultAndFlags := fun s =>
  ⟨_, exec_adc65C02 true s, toNat_rDecAdd _ _ _, addChi_eq_addHi0Nat _ _ _, rfl, overflowAdd_addHi0 _ _ _, rfl,
    writeBack_onlyResultChanged _ _⟩

/-- Settles O26: both instructions write back `r_dec_add` and `c_dec_add`. -/
theorem decimalAddSameResultOnBothVariants : Obligations.DecimalAddSameResultOnBothVariants := fun s =>
  ⟨_, _, exec_adc6502 true s, exec_adc65C02 true s, rfl, rfl⟩

/-- Settles O24: the corrected difference of the two lanes, C from the high lane's borrow, and N, V and Z of the binary
difference. -/
theorem decimalSub6502ResultAndFlags : Obligations.DecimalSub6502ResultAndFlags := by
  intro s
  refine ⟨_, exec_sbc6502 true s, ?_⟩
  simp only [← loNibble_eq_toNat, ← hiNibble_eq_toNat, ← borrowIn_eq]
  have hsign : signBit (rBinSub s.c s.a s.b) = decide (128 ≤ (zext s.a - zext s.b - borrowIn s.c) % 256) := by
    rw [signBit_eq, zext_rBinSub]
  refine ⟨?_, ?_, hsign, ?_, congrArg (overflowSub (signBit s.a) (signBit s.b)) hsign,
    writeBack_onlyResultChanged _ _⟩
  · have h := zext_rDecSub6502 s.c s.a s.b
    rwa [sub6502Hi_eq, sub6502Lo_eq, subHi0_eq] at h
  · exact congrArg (fun x : Int => !decide (x < 0)) (subHi0_eq s.c s.a s.b)
  · have h := beq_zero_eq (rBinSub s.c s.a s.b)
    rwa [zext_rBinSub] at h

/-- Settles O25: the difference whose high lane loses 1 more where the corrected low lane is still negative, C from the
high lane's borrow, V from bit 3 of the high lane before its correction, and N and Z of the result. -/
theorem decimalSub65C02ResultAndFlags : Obligations.DecimalSub65C02ResultAndFlags := by
  intro s
  refine ⟨_, exec_sbc65C02 true s, ?_⟩
  simp only [← loNibble_eq_toNat, ← hiNibble_eq_toNat, ← borrowIn_eq]
  have hhi0 := subHi0_eq s.c s.a s.b
  refine ⟨?_, congrArg (fun x : Int => !decide (x < 0)) hhi0, rfl, rfl,
    congrArg (fun x : Int => overflowSub (signBit s.a) (signBit s.b) (intBit 3 x)) hhi0,
    writeBack_onlyResultChanged _ _⟩
  have h := zext_rDecSub65C02 s.c s.a s.b
  rwa [sub65C02Hi, sub65C02Lo, bitVal_sub65C02Lsn, sub65C02Hi1_eq, sub65C02Lo1_eq, hhi0] at h

end Sys2Proof.Machine
end

section
/-! PROOFS. Counting: sums over periods, and counts of what the low nibbles decide or what only decimal mode shows. -/

namespace Sys2Proof.Machine

theorem sumBelow_append (f : Nat → Nat) (n m : Nat) :
    sumBelow f (n + m) = sumBelow f n + sumBelow (fun k => f (n + k)) m := by
  induction m with
  | zero => rfl
  | succ m ih =>
    rw [← Nat.add_assoc, sumBelow, sumBelow, ih, Nat.add_assoc]

/-- A sum over whole periods is the sum over one of them, that many times. -/
theorem sumBelow_periodic (g : Nat → Nat) (p m : Nat) : sumBelow (fun k => g (k % p)) (p * m) = m * sumBelow g p := by
  induction m with
  | zero => rw [Nat.mul_zero, Nat.zero_mul, sumBelow]
  | succ m ih =>
    have hperiod : sumBelow (fun k => g ((p * m + k) % p)) p = sumBelow g p :=
      sumBelow_congr p fun k hk => by rw [Nat.mul_add_mod, Nat.mod_eq_of_lt hk]
    rw [Nat.mul_succ, sumBelow_append, ih, hperiod, Nat.succ_mul]

theorem sumBelow_mul_left (m : Nat) (f : Nat → Nat) (n : Nat) : sumBelow (fun k => m * f k) n = m * sumBelow f n := by
  induction n with
  | zero => rfl
  | succ n ih => rw [sumBelow, sumBelow, ih, Nat.mul_add]

/-- A predicate of C and the low nibbles holds for each of the 256 pairs of high nibbles alike. -/
theorem countInputs_of_lowNibbles {p : Bool → Byte → Byte → Bool} (q : Bool → Nat → Nat → Bool)
    (h : ∀ c a b, p c a b = q c (a.toNat % 16) (b.toNat % 16)) :
    countInputs p =
      256 * sumBelow (fun x => sumBelow (fun y => (q false x y).toNat + (q true x y).toNat) 16) 16 := by
  have hbyte (k : Nat) : (BitVec.ofNat 8 k).toNat % 16 = k % 16 := by
    rw [BitVec.toNat_ofNat]
    omega
  have hrow (x : Nat) := sumBelow_periodic (fun y => (q false (x % 16) y).toNat + (q true (x % 16) y).toNat) 16 16
  have hrows := sumBelow_periodic
    (fun x => 16 * sumBelow (fun y => (q false x y).toNat + (q true x y).toNat) 16) 16 16
  simp only [Nat.reduceMul] at hrow hrows
  simp only [countInputs, h, hbyte, hrow, hrows, sumBelow_mul_left]
  omega

/-- What never happens in binary mode is counted in decimal mode alone. -/
theorem countAll_of_decimal {p : Bool → Bool → Byte → Byte → Bool} (h : ∀ c a b, p false c a b = false) :
    countAll p = countInputs (p true) := by
  rw [countAll, countInputs_none h, Nat.zero_add]

end Sys2Proof.Machine
end

section
/-! PROOFS. DecimalLaws: decimal arithmetic on valid BCD (R131), where the two decimal SBCs differ (R132), and what
passes between the two lanes (R134). -/

namespace Sys2Proof.Machine

section
variable (cIn : Bool) (a b : Byte)

/-! ### The still-negative step (R132) -/

theorem sub65C02Lsn_iff : sub65C02Lsn cIn a b = true ↔ subLo0 cIn a b ≤ -11 := by
  rw [sub65C02Lsn, decide_eq_true_eq, sub65C02Lo1_eq]
  split <;> omega

/-- The 6502's high nibble is the 65C02's without the still-negative step. -/
theorem sub6502Hi_eq_mod : sub6502Hi cIn a b = sub65C02Hi1 cIn a b % 16 := by
  have := subHi0_bounds cIn a b
  rw [sub6502Hi_eq, sub65C02Hi1_eq]
  split <;> omega

theorem sub6502Hi_eq_iff : sub6502Hi cIn a b = sub65C02Hi cIn a b ↔ sub65C02Lsn cIn a b = false := by
  rw [sub6502Hi_eq_mod, sub65C02Hi]
  cases sub65C02Lsn cIn a b
  · simp
  · simp only [bitVal_true, Bool.true_eq_false, iff_false]
    omega

theorem rDecSub_eq_iff : rDecSub6502 cIn a b = rDecSub65C02 cIn a b ↔ sub65C02Lsn cIn a b = false := by
  rw [byte_eq_iff_nibbles, rDecSub6502_hi, rDecSub65C02_hi, rDecSub6502_lo, rDecSub65C02_lo, sub65C02Lo_eq,
    sub6502Hi_eq_iff]
  exact and_iff_left rfl

theorem rDecSub_bne : (rDecSub6502 cIn a b != rDecSub65C02 cIn a b) = sub65C02Lsn cIn a b := by
  rw [Bool.eq_iff_iff, bne_iff_ne, ne_eq, rDecSub_eq_iff, Bool.not_eq_false]

theorem sub65C02Lsn_eq_toNat :
    sub65C02Lsn cIn a b = decide (a.toNat % 16 + cIn.toNat + 10 ≤ b.toNat % 16) := by
  rw [Bool.eq_iff_iff, sub65C02Lsn_iff, decide_eq_true_eq, subLo0, loNibble_eq_toNat, loNibble_eq_toNat, borrowIn_eq]
  omega

end

/-- The low lanes whose difference is at most −11, with a borrow in and without. -/
theorem sumBelow_still_negative :
    sumBelow (fun x => sumBelow (fun y =>
      (decide (x + false.toNat + 10 ≤ y)).toNat + (decide (x + true.toNat + 10 ≤ y)).toNat) 16) 16 = 36 := by
  decide

/-- The count of R132: 36 cases of the low lane, each with 256 pairs of high nibbles; none in binary mode. -/
theorem countAll_sbc_results_differ :
    countAll (fun d c a b => (sbc6502 d c a b).r != (sbc65C02 d c a b).r) = 9216 := by
  have hbinary (c : Bool) (a b : Byte) : ((sbc6502 false c a b).r != (sbc65C02 false c a b).r) = false := by
    rw [sbc6502_false, sbc65C02_false, bne_self_eq_false]
  have hdecimal (c : Bool) (a b : Byte) : ((sbc6502 true c a b).r != (sbc65C02 true c a b).r) =
      decide (a.toNat % 16 + c.toNat + 10 ≤ b.toNat % 16) :=
    (rDecSub_bne c a b).trans (sub65C02Lsn_eq_toNat c a b)
  rw [countAll_of_decimal hbinary, countInputs_of_lowNibbles (fun c x y => decide (x + c.toNat + 10 ≤ y)) hdecimal,
    sumBelow_still_negative]

/-- Settles O30: the low nibbles always agree, and the high ones differ by `lsn`; `lsn` says that the low lane's
difference is at most −11, which is a question of the low nibbles and C alone. -/
theorem decimalSubVariantsDifferIffStillNegative : Obligations.DecimalSubVariantsDifferIffStillNegative := by
  refine ⟨fun s => ⟨_, _, exec_sbc6502 true s, exec_sbc65C02 true s, rfl, ?_, sub65C02Lsn_iff _ _ _, fun h => ?_,
    fun h => ⟨(sub6502Hi_eq_iff _ _ _).2 h, (sub65C02Lo_eq _ _ _).symm⟩⟩, countAll_sbc_results_differ⟩
  · exact (not_congr (rDecSub_eq_iff s.c s.a s.b)).trans (by rw [Bool.not_eq_false])
  · have hdiff := (sub65C02Lsn_iff s.c s.a s.b).1 h
    have ha := loNibble_bounds s.a
    have hc := borrowIn_bounds s.c
    rw [subLo0] at hdiff
    omega

/-! ### Valid BCD (R131) -/

/-- A lane of decimal addition whose digits' sum is at most 19 leaves a digit and a carry of 10. -/
theorem addDigit {x : Int} (hmin : 0 ≤ x) (hmax : x ≤ 19) :
    (if decide (9 < x) = true then (x - 10) % 16 else x) ≤ 9 ∧
      (if decide (9 < x) = true then (x - 10) % 16 else x) + 10 * bitVal (decide (9 < x)) = x := by
  simp only [bitVal_decide, decide_eq_true_eq]
  split <;> omega

/-- A lane of decimal subtraction whose digits' difference is at least −10 leaves a digit and a borrow of 10. -/
theorem subDigit {x : Int} (hmin : -10 ≤ x) (hmax : x ≤ 9) :
    (if decide (x < 0) = true then (x + 10) % 16 else x) ≤ 9 ∧
      (if decide (x < 0) = true then (x + 10) % 16 else x) - 10 * bitVal (decide (x < 0)) = x := by
  simp only [bitVal_decide, decide_eq_true_eq]
  split <;> omega

section
variable {a b : Byte} (cIn : Bool) (ha : validBcd a = true) (hb : validBcd b = true)
include ha hb

theorem addLo_digit :
    addLo cIn a b ≤ 9 ∧ addLo cIn a b + 10 * bitVal (addClo cIn a b) = addLo0 cIn a b := by
  obtain ⟨halo, -⟩ := (validBcd_iff a).1 ha
  obtain ⟨hblo, -⟩ := (validBcd_iff b).1 hb
  have hc := bitVal_bounds cIn
  exact addDigit (addLo0_bounds cIn a b).1 (by rw [addLo0]; omega)

theorem addHi_digit :
    addHi cIn a b ≤ 9 ∧ addHi cIn a b + 10 * bitVal (addChi cIn a b) = addHi0 cIn a b := by
  obtain ⟨-, hahi⟩ := (validBcd_iff a).1 ha
  obtain ⟨-, hbhi⟩ := (validBcd_iff b).1 hb
  have hc := bitVal_bounds (addClo cIn a b)
  exact addDigit (addHi0_bounds cIn a b).1 (by rw [addHi0]; omega)

theorem sub6502Lo_digit :
    sub6502Lo cIn a b ≤ 9 ∧ sub6502Lo cIn a b - 10 * bitVal (subBlo cIn a b) = subLo0 cIn a b := by
  obtain ⟨halo, -⟩ := (validBcd_iff a).1 ha
  obtain ⟨hblo, -⟩ := (validBcd_iff b).1 hb
  have hamin := loNibble_bounds a
  have hbmin := loNibble_bounds b
  have hc := borrowIn_bounds cIn
  exact subDigit (by rw [subLo0]; omega) (by rw [subLo0]; omega)

theorem sub6502Hi_digit :
    sub6502Hi cIn a b ≤ 9 ∧ sub6502Hi cIn a b - 10 * bitVal (subBhi cIn a b) = subHi0 cIn a b := by
  obtain ⟨-, hahi⟩ := (validBcd_iff a).1 ha
  obtain ⟨-, hbhi⟩ := (validBcd_iff b).1 hb
  have hamin := hiNibble_bounds a
  have hbmin := hiNibble_bounds b
  have hc := bitVal_bounds (subBlo cIn a b)
  exact subDigit (by rw [subHi0]; omega) (by rw [subHi0]; omega)

theorem rDecAdd_valid : validBcd (rDecAdd cIn a b) = true := by
  rw [validBcd_iff, rDecAdd_lo, rDecAdd_hi]
  exact ⟨(addLo_digit cIn ha hb).1, (addHi_digit cIn ha hb).1⟩

/-- The carry of the low digit weighs 10, which is 1 in the high one. -/
theorem dec_rDecAdd :
    dec (rDecAdd cIn a b) + 100 * bitVal (cDecAdd cIn a b) = dec a + dec b + bitVal cIn := by
  have hlo := (addLo_digit cIn ha hb).2
  have hhi := (addHi_digit cIn ha hb).2
  rw [addLo0] at hlo
  rw [addHi0] at hhi
  rw [dec, dec, dec, rDecAdd_hi, rDecAdd_lo, cDecAdd]
  omega

theorem rDecSub6502_valid : validBcd (rDecSub6502 cIn a b) = true := by
  rw [validBcd_iff, rDecSub6502_lo, rDecSub6502_hi]
  exact ⟨(sub6502Lo_digit cIn ha hb).1, (sub6502Hi_digit cIn ha hb).1⟩

/-- The borrow of the low digit weighs 10, which is 1 in the high one. -/
theorem dec_rDecSub6502 :
    dec (rDecSub6502 cIn a b) - 100 * borrowIn (cDecSub6502 cIn a b) = dec a - dec b - borrowIn cIn := by
  have hlo := (sub6502Lo_digit cIn ha hb).2
  have hhi := (sub6502Hi_digit cIn ha hb).2
  have hborrow : borrowIn (cDecSub6502 cIn a b) = bitVal (subBhi cIn a b) := by
    rw [cDecSub6502]
    cases subBhi cIn a b <;> rfl
  rw [subLo0] at hlo
  rw [subHi0] at hhi
  rw [dec, dec, dec, rDecSub6502_hi, rDecSub6502_lo, hborrow]
  omega

omit ha in
/-- The operand's digits are less than 10, so the low nibble is never still negative and the 65C02 subtracts as the
6502. -/
theorem rDecSub65C02_eq_of_valid : rDecSub65C02 cIn a b = rDecSub6502 cIn a b := by
  refine ((rDecSub_eq_iff cIn a b).2 ?_).symm
  obtain ⟨hblo, -⟩ := (validBcd_iff b).1 hb
  have halo := loNibble_bounds a
  have hc := borrowIn_bounds cIn
  rw [Bool.eq_false_iff, ne_eq, sub65C02Lsn_iff, subLo0]
  omega

end

/-- Settles O29: each lane works on digits, with a carry or borrow of 10 into the next. -/
theorem validBcdIsDecimalArithmetic : Obligations.ValidBcdIsDecimalArithmetic := by
  intro s ha hb
  simp only [← bitVal_eq_toNat]
  exact ⟨⟨_, _, exec_adc6502 true s, exec_adc65C02 true s, rfl, rfl,
      rDecAdd_valid s.c ha hb, dec_rDecAdd s.c ha hb⟩,
    ⟨_, _, exec_sbc6502 true s, exec_sbc65C02 true s, (rDecSub65C02_eq_of_valid s.c hb).symm, rfl,
      rDecSub6502_valid s.c ha hb, dec_rDecSub6502 s.c ha hb⟩⟩

/-! ### The lanes (R134) -/

/-- What a decimal instruction leaves in each nibble of A and in C: a signal of one lane each. -/
theorem exec_decimal {i : Instr} (hi : i.decimal = true) (s : State) :
    ∃ t, exec i s = .next t ∧
      loNibble t.a = (if i.selSbc then sub6502Lo s.c s.a s.b else addLo s.c s.a s.b) ∧
      hiNibble t.a = (if i.selSbc then
          if i.sel65c02 then sub65C02Hi s.c s.a s.b else sub6502Hi s.c s.a s.b
        else addHi s.c s.a s.b) ∧
      t.c = if i.selSbc then !subBhi s.c s.a s.b else addChi s.c s.a s.b := by
  cases i with
  | adc6502 d =>
    obtain rfl : d = true := hi
    exact ⟨_, exec_adc6502 true s, rDecAdd_lo _ _ _, rDecAdd_hi _ _ _, rfl⟩
  | sbc6502 d =>
    obtain rfl : d = true := hi
    exact ⟨_, exec_sbc6502 true s, rDecSub6502_lo _ _ _, rDecSub6502_hi _ _ _, rfl⟩
  | adc65C02 d =>
    obtain rfl : d = true := hi
    exact ⟨_, exec_adc65C02 true s, rDecAdd_lo _ _ _, rDecAdd_hi _ _ _, rfl⟩
  | sbc65C02 d =>
    obtain rfl : d = true := hi
    exact ⟨_, exec_sbc65C02 true s, (rDecSub65C02_lo _ _ _).trans (sub65C02Lo_eq _ _ _), rDecSub65C02_hi _ _ _, rfl⟩

section
variable {cIn cIn' : Bool} {a b a' b' : Byte}

/-! The low lane reads C and the low nibbles. -/

section
variable (hc : cIn = cIn') (ha : loNibble a = loNibble a') (hb : loNibble b = loNibble b')
include hc ha hb

theorem addLo0_congr : addLo0 cIn a b = addLo0 cIn' a' b' := by
  rw [addLo0, addLo0, hc, ha, hb]

theorem subLo0_congr : subLo0 cIn a b = subLo0 cIn' a' b' := by
  rw [subLo0, subLo0, hc, ha, hb]

end

theorem addLo_congr (h : addLo0 cIn a b = addLo0 cIn' a' b') : addLo cIn a b = addLo cIn' a' b' := by
  rw [addLo, addLo, addClo, addClo, h]

theorem sub6502Lo_congr (h : subLo0 cIn a b = subLo0 cIn' a' b') : sub6502Lo cIn a b = sub6502Lo cIn' a' b' := by
  rw [sub6502Lo_eq, sub6502Lo_eq, h]

/-! The high lane reads the high nibbles and the low lane's carry or borrow, and on the 65C02 `lsn`. -/

section
variable (ha : hiNibble a = hiNibble a') (hb : hiNibble b = hiNibble b')
include ha hb

theorem addHi0_congr (hclo : addClo cIn a b = addClo cIn' a' b') : addHi0 cIn a b = addHi0 cIn' a' b' := by
  rw [addHi0, addHi0, ha, hb, hclo]

theorem subHi0_congr (hblo : subBlo cIn a b = subBlo cIn' a' b') : subHi0 cIn a b = subHi0 cIn' a' b' := by
  rw [subHi0, subHi0, ha, hb, hblo]

end

theorem addHi_congr (h : addHi0 cIn a b = addHi0 cIn' a' b') : addHi cIn a b = addHi cIn' a' b' := by
  rw [addHi, addHi, addChi, addChi, h]

theorem addChi_congr (h : addHi0 cIn a b = addHi0 cIn' a' b') : addChi cIn a b = addChi cIn' a' b' := by
  rw [addChi, addChi, h]

theorem subBhi_congr (h : subHi0 cIn a b = subHi0 cIn' a' b') : subBhi cIn a b = subBhi cIn' a' b' := by
  rw [subBhi, subBhi, h]

theorem sub6502Hi_congr (h : subHi0 cIn a b = subHi0 cIn' a' b') : sub6502Hi cIn a b = sub6502Hi cIn' a' b' := by
  rw [sub6502Hi_eq, sub6502Hi_eq, h]

theorem sub65C02Hi_congr (h : subHi0 cIn a b = subHi0 cIn' a' b')
    (hlsn : sub65C02Lsn cIn a b = sub65C02Lsn cIn' a' b') : sub65C02Hi cIn a b = sub65C02Hi cIn' a' b' := by
  rw [sub65C02Hi, sub65C02Hi, sub65C02Hi1_eq, sub65C02Hi1_eq, h, hlsn]

end

/-- The low nibble of the result is a function of C and the low nibbles. -/
theorem exec_decimal_loNibble {i : Instr} {s s' : State} (hi : i.decimal = true) (hc : s.c = s'.c)
    (ha : loNibble s.a = loNibble s'.a) (hb : loNibble s.b = loNibble s'.b) :
    ∃ t t', exec i s = .next t ∧ exec i s' = .next t' ∧ loNibble t.a = loNibble t'.a := by
  obtain ⟨t, ht, hlo, -, -⟩ := exec_decimal hi s
  obtain ⟨t', ht', hlo', -, -⟩ := exec_decimal hi s'
  refine ⟨t, t', ht, ht', ?_⟩
  rw [hlo, hlo', addLo_congr (addLo0_congr hc ha hb), sub6502Lo_congr (subLo0_congr hc ha hb)]

/-- The high nibble of the result and C are functions of the high nibbles and what the low lane passes up. -/
theorem exec_decimal_hiNibble {i : Instr} {s s' : State} (hi : i.decimal = true)
    (ha : hiNibble s.a = hiNibble s'.a) (hb : hiNibble s.b = hiNibble s'.b)
    (hclo : i.selSbc = false → addClo s.c s.a s.b = addClo s'.c s'.a s'.b)
    (hblo : i.selSbc = true → subBlo s.c s.a s.b = subBlo s'.c s'.a s'.b)
    (hlsn : i.selSbc = true → i.sel65c02 = true → sub65C02Lsn s.c s.a s.b = sub65C02Lsn s'.c s'.a s'.b) :
    ∃ t t', exec i s = .next t ∧ exec i s' = .next t' ∧ hiNibble t.a = hiNibble t'.a ∧ t.c = t'.c := by
  obtain ⟨t, ht, -, hhi, hcarry⟩ := exec_decimal hi s
  obtain ⟨t', ht', -, hhi', hcarry'⟩ := exec_decimal hi s'
  refine ⟨t, t', ht, ht', ?_⟩
  rw [hhi, hhi', hcarry, hcarry']
  cases hsbc : i.selSbc with
  | false =>
    have hraw := addHi0_congr ha hb (hclo hsbc)
    exact ⟨addHi_congr hraw, addChi_congr hraw⟩
  | true =>
    have hraw := subHi0_congr ha hb (hblo hsbc)
    refine ⟨?_, congrArg (!·) (subBhi_congr hraw)⟩
    cases hvariant : i.sel65c02 with
    | false => exact sub6502Hi_congr hraw
    | true => exact sub65C02Hi_congr hraw (hlsn hsbc hvariant)

/-- Settles O31: each nibble of the result, and C, is a signal of one lane, and the high lane sees the low one through
its carry, or its borrow and `lsn`, alone. -/
theorem lanesPassOnlyLowToHigh : Obligations.LanesPassOnlyLowToHigh := by
  refine ⟨fun i s s' hi hc ha hb => exec_decimal_loNibble hi hc ha hb,
    fun i s s' hi ha hb hclo hblo hlsn => exec_decimal_hiNibble hi ha hb hclo hblo hlsn, fun i s hi => ?_⟩
  obtain ⟨t, ht, -, -, hcarry⟩ := exec_decimal hi s
  exact ⟨t, ht, hcarry⟩

end Sys2Proof.Machine
end

section
/-! PROOFS. LaneCounting: counting a predicate that asks one question of the low lane and one of the high lane. -/

namespace Sys2Proof.Machine

/-- A sum over `p * m` numbers, by quotient and remainder. -/
theorem sumBelow_mul (f : Nat → Nat) (p m : Nat) :
    sumBelow f (p * m) = sumBelow (fun i => sumBelow (fun j => f (p * i + j)) p) m := by
  induction m with
  | zero => rfl
  | succ m ih => rw [Nat.mul_succ, sumBelow_append, ih, sumBelow]

/-- A sum over all bytes of a product of one function of each nibble is the product of the two sums. -/
theorem sumBelow_bytes {f : Byte → Nat} (high low : Nat → Nat)
    (h : ∀ x, f x = high (x.toNat / 16) * low (x.toNat % 16)) :
    sumBelow (fun k => f (BitVec.ofNat 8 k)) 256 = sumBelow high 16 * sumBelow low 16 := by
  have hrow (i : Nat) (hi : i < 16) :
      sumBelow (fun j => f (BitVec.ofNat 8 (16 * i + j))) 16 = sumBelow low 16 * high i := by
    rw [Nat.mul_comm (sumBelow low 16), ← sumBelow_mul_left]
    refine sumBelow_congr 16 fun j hj => ?_
    rw [h, BitVec.toNat_ofNat, show (16 * i + j) % 2 ^ 8 / 16 = i by omega, show (16 * i + j) % 2 ^ 8 % 16 = j by omega]
  rw [show 256 = 16 * 16 from rfl, sumBelow_mul, sumBelow_congr 16 hrow, sumBelow_mul_left, Nat.mul_comm]

/-- How many of the 512 inputs of the low lane, C and two nibbles, satisfy `f`. -/
def countLowLane (f : Bool → Nat → Nat → Bool) : Nat :=
  sumBelow (fun x => sumBelow (fun y => (f false x y).toNat + (f true x y).toNat) 16) 16

/-- How many of the 256 pairs of high nibbles satisfy `g`. -/
def countHighLane (g : Nat → Nat → Bool) : Nat :=
  sumBelow (fun x => sumBelow (fun y => (g x y).toNat) 16) 16

/-- The inputs whose low lane satisfies `f` and whose high nibbles satisfy `g`. -/
def inLanes (f : Bool → Nat → Nat → Bool) (g : Nat → Nat → Bool) (cIn : Bool) (a b : Byte) : Bool :=
  f cIn (a.toNat % 16) (b.toNat % 16) && g (a.toNat / 16) (b.toNat / 16)

theorem countInputs_inLanes (f : Bool → Nat → Nat → Bool) (g : Nat → Nat → Bool) :
    countInputs (inLanes f g) = countHighLane g * countLowLane f := by
  have hcell (a b : Byte) : (inLanes f g false a b).toNat + (inLanes f g true a b).toNat =
      (g (a.toNat / 16) (b.toNat / 16)).toNat *
        ((f false (a.toNat % 16) (b.toNat % 16)).toNat + (f true (a.toNat % 16) (b.toNat % 16)).toNat) := by
    rw [inLanes, inLanes]
    cases g (a.toNat / 16) (b.toNat / 16) <;> simp
  have hrow (a : Byte) := sumBelow_bytes (fun y => (g (a.toNat / 16) y).toNat)
    (fun y => (f false (a.toNat % 16) y).toNat + (f true (a.toNat % 16) y).toNat) (hcell a)
  exact (sumBelow_bytes (fun x => sumBelow (fun y => (g x y).toNat) 16)
    (fun x => sumBelow (fun y => (f false x y).toNat + (f true x y).toNat) 16) hrow :)

/-- Inputs that satisfy one of two predicates, never both. -/
theorem countInputs_or {p q : Bool → Byte → Byte → Bool} (h : ∀ c a b, p c a b = true → q c a b = false) :
    countInputs (fun c a b => p c a b || q c a b) = countInputs p + countInputs q := by
  have htoNat (c : Bool) (a b : Byte) : (p c a b || q c a b).toNat = (p c a b).toNat + (q c a b).toNat := by
    cases hp : p c a b with
    | false => simp
    | true => simp [h c a b hp]
  simp only [countInputs, htoNat, ← sumBelow_add, Nat.add_add_add_comm]

end Sys2Proof.Machine
end

section
/-! PROOFS. FlagUnit: the flags are functions of the evaluation's inputs (R150); the flags that decimal SBC shares with
binary SBC (R155, R158); where Z says that the result is zero (R159). -/

namespace Sys2Proof.Machine

/-- Settles O12: an instruction writes back the core's outputs on A, the operand and C. -/
theorem resultsDependOnInputsOnly : Obligations.ResultsDependOnInputsOnly := by
  intro i s s' ha hb hc
  refine ⟨_, _, exec_eq i s, exec_eq i s', ?_⟩
  have hinput : s.readInput i.sel65c02 i.selSbc i.decimal = s'.readInput i.sel65c02 i.selSbc i.decimal := by
    rw [State.readInput, State.readInput, ha, hb, hc]
  rw [hinput]
  exact ⟨rfl, rfl, rfl, rfl, rfl⟩

/-! ### Decimal subtraction and the binary difference (R155, R158) -/

section
variable (cIn : Bool) (a b : Byte)

/-- The raw high nibble of decimal subtraction is the binary difference without its low four bits: the low lane borrows
exactly when its difference is negative. -/
theorem subHi0_eq_binDiff_div : subHi0 cIn a b = binDiff cIn a b / 16 := by
  have := subLo0_bounds cIn a b
  rw [subHi0_eq, binDiff_eq_nibbles]
  split <;> omega

theorem not_subBhi_eq_cBinSub : (!subBhi cIn a b) = cBinSub cIn a b := by
  rw [subBhi, cBinSub, subHi0_eq_binDiff_div, binDiff, ← decide_not, decide_eq_decide]
  omega

theorem sub65C02Hb3_eq_signBit : sub65C02Hb3 cIn a b = signBit (rBinSub cIn a b) := by
  rw [sub65C02Hb3, intBit_three, subHi0_eq_binDiff_div, signBit_eq, zext_rBinSub, binDiff, decide_eq_decide]
  omega

theorem flagsDecSub6502_eq_flagsBinSub : flagsDecSub6502 cIn a b = flagsBinSub cIn a b := by
  rw [flagsDecSub6502, flagsBinSub, cDecSub6502, not_subBhi_eq_cBinSub]

end

/-- Settles O32: the two engines have one set of flags, and a write back puts only those and the result. -/
theorem sbc6502DecimalFlagsAreBinary : Obligations.Sbc6502DecimalFlagsAreBinary := by
  intro s
  refine ⟨_, _, exec_sbc6502 true s, exec_sbc6502 false s, ?_⟩
  rw [sbc6502_true, sbc6502_false, subDecimal6502, subWithCarry, flagsDecSub6502_eq_flagsBinSub]
  exact ⟨rfl, rfl, rfl, rfl, rfl⟩

/-- Settles O33: V reads `hb3` where binary SBC reads bit 7 of the difference, and the two bits are one; C is the same
borrow. -/
theorem sbc65C02DecimalOverflowAndCarryAreBinary : Obligations.Sbc65C02DecimalOverflowAndCarryAreBinary := by
  intro s
  have hhb3 := sub65C02Hb3_eq_signBit s.c s.a s.b
  exact ⟨_, _, exec_sbc65C02 true s, exec_sbc65C02 false s,
    congrArg (overflowSub (signBit s.a) (signBit s.b)) hhb3, not_subBhi_eq_cBinSub s.c s.a s.b, hhb3⟩

/-! ### Z and the result (R159) -/

section
variable (cIn : Bool) (a b : Byte)

/-- A lane of decimal addition leaves 0 from a raw sum of 0 and, by the correction, from 10 and 26. -/
theorem addCorrect_eq_zero {n : Nat} (hn : n ≤ 31) : addCorrect n = 0 ↔ n = 0 ∨ n = 10 ∨ n = 26 := by
  rw [addCorrect]
  split <;> omega

theorem rDecAdd_eq_zero_iff :
    (rDecAdd cIn a b).toNat = 0 ↔
      (addLo0Nat cIn a b = 0 ∨ addLo0Nat cIn a b = 10 ∨ addLo0Nat cIn a b = 26) ∧
      (addHi0Nat cIn a b = 0 ∨ addHi0Nat cIn a b = 10 ∨ addHi0Nat cIn a b = 26) := by
  have hlo := (addLo0_bounds cIn a b).2
  have hhi := (addHi0_bounds cIn a b).2
  rw [addLo0_eq_addLo0Nat] at hlo
  rw [addHi0_eq_addHi0Nat] at hhi
  rw [toNat_rDecAdd, ← addCorrect_eq_zero (by omega), ← addCorrect_eq_zero (by omega)]
  omega

/-- Where one of the binary and the decimal sum is zero and the other is not, by the low lane's raw sum: after 0 the
high nibbles decide, after 10 or 26 only the decimal sum can be zero, after 16 only the binary one. -/
theorem rBinAdd_zero_bne_rDecAdd_zero :
    ((rBinAdd cIn a b == 0) != (rDecAdd cIn a b == 0)) =
      (inLanes (fun c x y => decide (x + y + c.toNat = 0))
          (fun x y => decide (x + y = 10 ∨ x + y = 16 ∨ x + y = 26)) cIn a b ||
        (inLanes (fun c x y => decide (x + y + c.toNat = 10 ∨ x + y + c.toNat = 26))
            (fun x y => decide (x + y = 9 ∨ x + y = 25)) cIn a b ||
          inLanes (fun c x y => decide (x + y + c.toNat = 16)) (fun x y => decide (x + y = 15)) cIn a b)) := by
  have ha := a.isLt
  have hb := b.isLt
  have hc := cIn.toNat_le
  rw [Bool.eq_iff_iff, bne_iff_ne, ne_eq, rBinAdd_beq_zero, beq_zero_eq_toNat, decide_eq_decide, rDecAdd_eq_zero_iff,
    addHi0Nat, addLo0Nat]
  simp only [inLanes, Bool.or_eq_true, Bool.and_eq_true, decide_eq_true_eq]
  split <;> omega

/-- A lane of decimal subtraction leaves 0 from a raw difference of 0 and, by the correction, from −10. -/
theorem sub6502Lo_eq_zero_iff : sub6502Lo cIn a b = 0 ↔ subLo0 cIn a b = 0 ∨ subLo0 cIn a b = -10 := by
  have := subLo0_bounds cIn a b
  rw [sub6502Lo_eq]
  split <;> omega

theorem sub6502Hi_eq_zero_iff : sub6502Hi cIn a b = 0 ↔ subHi0 cIn a b = 0 ∨ subHi0 cIn a b = -10 := by
  have := subHi0_bounds cIn a b
  rw [sub6502Hi_eq]
  split <;> omega

theorem rDecSub6502_eq_zero_iff :
    zext (rDecSub6502 cIn a b) = 0 ↔
      (subLo0 cIn a b = 0 ∨ subLo0 cIn a b = -10) ∧ (subHi0 cIn a b = 0 ∨ subHi0 cIn a b = -10) := by
  have hlo := sub6502Lo_bounds cIn a b
  have hhi := sub6502Hi_bounds cIn a b
  rw [zext_rDecSub6502, ← sub6502Lo_eq_zero_iff, ← sub6502Hi_eq_zero_iff]
  omega

theorem rBinSub_eq_zero_iff : zext (rBinSub cIn a b) = 0 ↔ binDiff cIn a b = 0 ∨ binDiff cIn a b = -256 := by
  have := zext_bounds a
  have := zext_bounds b
  have := borrowIn_bounds cIn
  rw [zext_rBinSub, binDiff]
  omega

/-- Where one of the binary and the decimal difference is zero and the other is not, by the low lane's raw difference:
after 0 the high nibbles decide, after −10 only the decimal difference can be zero, after −16 only the binary one. -/
theorem rBinSub_zero_bne_rDecSub6502_zero :
    ((rBinSub cIn a b == 0) != (rDecSub6502 cIn a b == 0)) =
      (inLanes (fun c x y => decide (x + c.toNat = y + 1)) (fun x y => decide (x + 10 = y)) cIn a b ||
        (inLanes (fun c x y => decide (x + c.toNat + 9 = y)) (fun x y => decide (x = y + 1 ∨ x + 9 = y)) cIn a b ||
          inLanes (fun c x y => decide (x + c.toNat + 15 = y))
            (fun x y => decide (x = y + 1 ∨ x + 15 = y)) cIn a b)) := by
  have ha := a.isLt
  have hb := b.isLt
  have hc := cIn.toNat_le
  rw [Bool.eq_iff_iff, bne_iff_ne, ne_eq, beq_zero_eq, beq_zero_eq, decide_eq_decide, rBinSub_eq_zero_iff,
    rDecSub6502_eq_zero_iff, binDiff_eq_nibbles, subHi0_eq, subLo0, loNibble_eq_toNat, loNibble_eq_toNat,
    hiNibble_eq_toNat, hiNibble_eq_toNat, borrowIn_eq]
  simp only [inLanes, Bool.or_eq_true, Bool.and_eq_true, decide_eq_true_eq]
  split <;> omega

end

/-! ### Counting where Z does not say that the result is zero -/

/-- Predicates of three different low lanes: the inputs of each are counted by its two lanes. -/
theorem countInputs_threeLanes {f₁ f₂ f₃ : Bool → Nat → Nat → Bool} (g₁ g₂ g₃ : Nat → Nat → Bool)
    (h₁ : ∀ c x y, f₁ c x y = true → f₂ c x y = false ∧ f₃ c x y = false)
    (h₂ : ∀ c x y, f₂ c x y = true → f₃ c x y = false) :
    countInputs (fun c a b => inLanes f₁ g₁ c a b || (inLanes f₂ g₂ c a b || inLanes f₃ g₃ c a b)) =
      countHighLane g₁ * countLowLane f₁ +
        (countHighLane g₂ * countLowLane f₂ + countHighLane g₃ * countLowLane f₃) := by
  simp only [← countInputs_inLanes]
  rw [countInputs_or, countInputs_or]
  · intro c a b h
    simp [inLanes, h₂ _ _ _ (Bool.and_elim_left h)]
  · intro c a b h
    simp [inLanes, h₁ _ _ _ (Bool.and_elim_left h)]

/-- 1 low lane with 31 pairs of high nibbles, 32 with 16, and 31 with 16. -/
theorem countInputs_add_zero_differ :
    countInputs (fun c a b => (rBinAdd c a b == 0) != (rDecAdd c a b == 0)) = 1039 := by
  rw [countInputs_congr rBinAdd_zero_bne_rDecAdd_zero, countInputs_threeLanes]
  · decide
  all_goals
    simp only [decide_eq_true_eq, decide_eq_false_iff_not]
    omega

/-- 31 low lanes with 6 pairs of high nibbles, 13 with 22, and 1 with 16. -/
theorem countInputs_sub_zero_differ :
    countInputs (fun c a b => (rBinSub c a b == 0) != (rDecSub6502 c a b == 0)) = 488 := by
  rw [countInputs_congr rBinSub_zero_bne_rDecSub6502_zero, countInputs_threeLanes]
  · decide
  all_goals
    simp only [decide_eq_true_eq, decide_eq_false_iff_not]
    omega

theorem countAll_adc6502_zero_differ :
    countAll (fun d c a b => (adc6502 d c a b).z != ((adc6502 d c a b).r == 0)) = 1039 :=
  (countAll_of_decimal fun _ _ _ => bne_self_eq_false _).trans countInputs_add_zero_differ

theorem countAll_sbc6502_zero_differ :
    countAll (fun d c a b => (sbc6502 d c a b).z != ((sbc6502 d c a b).r == 0)) = 488 :=
  (countAll_of_decimal fun _ _ _ => bne_self_eq_false _).trans countInputs_sub_zero_differ

/-- Settles O34: on the named paths Z is the zero test of the result that is written back. The 6502's decimal paths
test the binary result instead, and it and the decimal one are counted lane by lane. -/
theorem zeroFlagAndResult : Obligations.ZeroFlagAndResult := by
  refine ⟨fun i hi s => ?_, countAll_adc6502_zero_differ, countAll_sbc6502_zero_differ, fun s ha hb hc => ?_,
    fun s ha hb hc => ?_⟩
  · rcases hi with rfl | rfl | rfl | rfl | rfl | rfl <;> exact ⟨_, exec_eq _ s, rfl⟩
  · refine ⟨_, exec_adc6502 true s, ?_⟩
    rw [State.writeBack_a, State.writeBack_z, ha, hb, hc]
    decide
  · refine ⟨_, exec_sbc6502 true s, ?_⟩
    rw [State.writeBack_a, State.writeBack_z, ha, hb, hc]
    decide

end Sys2Proof.Machine
end

section
/-! PROOFS. AluOperations: what one step answers in each case of its fetch, the consumer contract (R185), that every
instruction and step completes (R186), and the round trip of adding zero in binary mode (R187). -/

namespace Sys2Proof.Machine

/-! ### Adding zero without carry (R187) -/

section
variable (a : Byte)

theorem binSum_zero : binSum false a 0 = zext a := by
  rw [binSum, zext_eq_zero.2 rfl, bitVal_false, Int.add_zero, Int.add_zero]

theorem rBinAdd_zero : rBinAdd false a 0 = a := by
  have := zext_bounds a
  rw [rBinAdd, binSum_zero, ← zext_inj, zext_mod256]
  omega

theorem cBinAdd_zero : cBinAdd false a 0 = false := by
  have := zext_bounds a
  rw [cBinAdd, binSum_zero, decide_eq_false_iff_not]
  omega

end

/-- V stays clear where the result has the sign of the accumulator. -/
theorem overflowAdd_same_sign (sa sb : Bool) : overflowAdd sa sb sa = false := by
  rw [overflowAdd, Bool.xor_self, Bool.false_and]

theorem signBit_eq_toNat (x : Byte) : signBit x = decide (0x80 ≤ x.toNat) := by
  rw [signBit_eq, zext, decide_eq_decide]
  omega

/-- All that the adder answers for operand 0 without carry. -/
theorem addWithCarry_zero (a : Byte) :
    addWithCarry false a 0 = { r := a, n := decide (0x80 ≤ a.toNat), v := false, z := decide (a = 0), cOut := false } := by
  rw [addWithCarry, flagsBinAdd, rBinAdd_zero, cBinAdd_zero, overflowAdd_same_sign, signBit_eq_toNat]
  rfl

/-- Settles O21: both variants run the one adder, whose sum is then the accumulator itself. -/
theorem binaryAddZeroRoundTrip : Obligations.BinaryAddZeroRoundTrip := by
  intro i hi s hc hb
  refine ⟨_, exec_binary_adc hi s, ?_⟩
  rw [hc, hb, addWithCarry_zero]
  exact ⟨rfl, rfl, rfl, rfl, rfl⟩

/-! ### A step by what it fetches -/

section
variable {s : State}

theorem step_of_fetch_none (h : s.fetch = none) : step s = .next s := by
  rw [step, h]

theorem step_of_fetch_consumer {act : ConsumerAction} (h : s.fetch = some (.consumer act)) :
    step s = .next (act.run s.advance) := by
  rw [step, h]

/-- An evaluation step runs the core on the consumer's A, operand, C and D and writes its outputs back (R185). -/
theorem step_of_fetch_evaluate {x y : Bool} (h : s.fetch = some (.evaluate x y)) :
    step s = .next (s.advance.writeBack (alu (s.readInput x y s.d))) := by
  have hexec : step s = exec (s.issue x y) s.advance := by rw [step, h]
  rw [hexec, exec_eq, State.issue_sel65c02, State.issue_selSbc, State.issue_decimal]
  rfl

end

/-- Settles O10: the write back, with the advance of the step number, is the update that the contract spells out. -/
theorem consumerContract : Obligations.ConsumerContract :=
  fun _ _ _ h => step_of_fetch_evaluate h

/-! ### Everything completes (R186) -/

theorem step_safe (s : State) : SafeStep s :=
  match h : s.fetch with
  | none => ⟨_, step_of_fetch_none h⟩
  | some (.consumer _) => ⟨_, step_of_fetch_consumer h⟩
  | some (.evaluate _ _) => ⟨_, step_of_fetch_evaluate h⟩

/-- Settles O9: an instruction always answers its write back, so neither of the other outcomes, and a step answers a
next state whatever it fetches. -/
theorem everyInstructionCompletes : Obligations.EveryInstructionCompletes := by
  refine ⟨fun i s => ⟨_, exec_eq i s⟩, step_safe, fun i s f hfault => ?_, fun i s r hrefused => ?_⟩
  · rw [exec_eq] at hfault
    cases hfault
  · rw [exec_eq] at hrefused
    cases hrefused

end Sys2Proof.Machine
end

section
/-! PROOFS. DecodeEncode: decoding and encoding are inverse, over control words, one byte, and lists of bytes (R60, R62,
R63). -/

namespace Sys2Proof

/-! ### Control words -/

/-- A control word is made of its three bits (R60). -/
theorem ctrlWord_bits (w : Ctrl) : ctrlWord (w.getLsbD 2) (w.getLsbD 1) (w.getLsbD 0) = w := by
  simp only [ctrlWord, Machine.ofBool_getLsbD, BitVec.extractLsb'_append_extractLsb'_eq_extractLsb' (w := 3),
    Nat.reduceAdd, BitVec.extractLsb'_eq_self]

@[simp] theorem encodeCtrl_decodeCtrl (w : Ctrl) : encodeCtrl (decodeCtrl w) = w := by
  rw [encodeCtrl_eq_ctrlWord, decodeCtrl_sel65c02, decodeCtrl_selSbc, decodeCtrl_decimal, ctrlWord_bits]

/-- The word of an instruction's fields decodes to it (R62). -/
@[simp] theorem decodeCtrl_ctrlWord_fields (i : Instr) :
    decodeCtrl (ctrlWord i.sel65c02 i.selSbc i.decimal) = i := by
  cases i with
  | adc6502 d => exact decodeCtrl_ctrlWord_adc6502 d
  | sbc6502 d => exact decodeCtrl_ctrlWord_sbc6502 d
  | adc65C02 d => exact decodeCtrl_ctrlWord_adc65C02 d
  | sbc65C02 d => exact decodeCtrl_ctrlWord_sbc65C02 d

@[simp] theorem decodeCtrl_encodeCtrl (i : Instr) : decodeCtrl (encodeCtrl i) = i := by
  rw [encodeCtrl_eq_ctrlWord, decodeCtrl_ctrlWord_fields]

/-! ### One byte -/

/-- The byte that carries a control word is well-formed (log entry 8). -/
theorem ctrlByteWellFormed_setWidth (c : Ctrl) : ctrlByteWellFormed (c.setWidth 8) = true := by
  have := c.isLt
  rw [ctrlByteWellFormed, decide_eq_true_eq, BitVec.toNat_setWidth]
  omega

/-- A well-formed byte is the byte that carries its low three bits. -/
theorem setWidth_setWidth_of_ctrlByteWellFormed {w : Byte} (h : ctrlByteWellFormed w = true) :
    (w.setWidth 3).setWidth 8 = w := by
  rw [ctrlByteWellFormed, decide_eq_true_eq] at h
  apply BitVec.eq_of_toNat_eq
  rw [BitVec.toNat_setWidth, BitVec.toNat_setWidth]
  omega

theorem decode_setWidth_cons (c : Ctrl) (rest : List Byte) :
    decode (c.setWidth 8 :: rest) = .ok (decodeCtrl c) rest := by
  rw [decode, if_pos (ctrlByteWellFormed_setWidth c), BitVec.setWidth_setWidth_of_le c (by decide), BitVec.setWidth_eq]

theorem decode_encode_append (i : Instr) (rest : List Byte) : decode (encode i ++ rest) = .ok i rest := by
  rw [encode, List.singleton_append, decode_setWidth_cons, decodeCtrl_encodeCtrl]

theorem decode_cons_of_illFormed {w : Byte} (rest : List Byte) (h : 8 ≤ w.toNat) :
    decode (w :: rest) = .rejected (.notAControlWord w) := by
  have hw : ctrlByteWellFormed w = false := decide_eq_false (by omega)
  rw [decode, hw]
  rfl

theorem eq_encode_append_of_decode {bytes rest : List Byte} {i : Instr} (h : decode bytes = .ok i rest) :
    bytes = encode i ++ rest := by
  cases bytes with
  | nil => cases h
  | cons w ws =>
    rw [decode] at h
    split at h
    · next hw =>
      cases h
      rw [encode, encodeCtrl_decodeCtrl, setWidth_setWidth_of_ctrlByteWellFormed hw, List.singleton_append]
    · cases h

/-! ### Lists of instructions -/

theorem encodeAll_cons (i : Instr) (is : List Instr) : encodeAll (i :: is) = encode i ++ encodeAll is := rfl

theorem decodeAll_encodeAll (is : List Instr) : decodeAll (encodeAll is) = some is := by
  induction is with
  | nil => rfl
  | cons i is ih =>
    have hhead : decode (encode i) = .ok i [] := decode_encode_append i []
    rw [encode] at hhead
    rw [encodeAll_cons, encode, List.singleton_append, decodeAll, hhead, ih]

theorem encodeAll_of_decodeAll {bytes : List Byte} {is : List Instr} (h : decodeAll bytes = some is) :
    encodeAll is = bytes := by
  induction bytes generalizing is with
  | nil =>
    cases h
    rfl
  | cons w ws ih =>
    rw [decodeAll] at h
    split at h
    · next i rest js hhead htail =>
      cases h
      obtain ⟨hw, -⟩ := List.cons_eq_cons.1 (eq_encode_append_of_decode hhead)
      rw [encodeAll_cons, ih htail, encode, List.singleton_append, ← hw]
    · cases h

/-- Settles O41: a byte carries a control word exactly when it is below 8, and control words and instructions are one to
one; the lists follow byte by byte. -/
theorem decodeInvertsEncode : Obligations.DecodeInvertsEncode :=
  ⟨fun _ _ _ => ⟨eq_encode_append_of_decode, fun h => h ▸ decode_encode_append _ _⟩, decodeAll_encodeAll,
    fun _ _ => encodeAll_of_decodeAll, encodeCtrl_decodeCtrl, fun _ rest => decode_cons_of_illFormed rest⟩

/-- Settles O3: the six words are closed terms, which the decoder evaluates. -/
theorem tableWordsDecode : Obligations.TableWordsDecode := by
  unfold Obligations.TableWordsDecode
  decide

end Sys2Proof
end

section
/-! PROOFS. Steps: what an action of the consumer and a step of its program can change, said once for each
(95_test_vectors.md 3.1), the step of each row of the spec's table, and the word that `withFetchWord` places. -/

namespace Sys2Proof.Machine

/-! ### What an action and a step can change -/

/-- An action assigns to a register or flag only where it says so, and never touches N, V, Z or the program. -/
theorem run_changes (act : ConsumerAction) (s : State) :
    ((act.run s).d = s.d ∨ act = .setD (act.run s).d) ∧
    ((act.run s).c = s.c ∨ act = .setC (act.run s).c) ∧
    ((act.run s).a = s.a ∨ act = .setA (act.run s).a) ∧
    ((act.run s).b = s.b ∨ act = .setB (act.run s).b) ∧
    ((act.run s).n = s.n ∧ (act.run s).v = s.v ∧ (act.run s).z = s.z) ∧
    (act.run s).program = s.program := by
  cases act with
  | gotoIf f x k =>
    rw [ConsumerAction.run]
    split <;> simp
  | _ => simp [ConsumerAction.run]

/-- All that a step can do, with an evaluation as the write back it answers (R185). -/
theorem step_next_cases {s t : State} (h : step s = .next t) :
    (s.fetch = none ∧ t = s) ∨
    (∃ act, s.fetch = some (.consumer act) ∧ t = act.run s.advance) ∨
    (∃ x y, s.fetch = some (.evaluate x y) ∧ t = s.advance.writeBack (alu (s.readInput x y s.d))) := by
  rcases step_cases h with hhalt | hact | ⟨x, y, hf, -⟩
  · exact .inl hhalt
  · exact .inr (.inl hact)
  · rw [step_of_fetch_evaluate hf] at h
    cases h
    exact .inr (.inr ⟨x, y, hf, rfl⟩)

/-- Settles O13: neither an action nor a write back touches the program. -/
theorem noStepChangesTheProgram : Obligations.NoStepChangesTheProgram := by
  intro s t h
  obtain ⟨-, rfl⟩ | ⟨act, -, rfl⟩ | ⟨x, y, -, rfl⟩ := step_next_cases h
  · rfl
  · obtain ⟨-, -, -, -, -, hprogram⟩ := run_changes act s.advance
    exact hprogram
  · rfl

/-- Settles O14: a halted program changes nothing, an action what it assigns to, an evaluation A, N, V, Z and C. -/
theorem onlyTheseStepsChangeEachFlag : Obligations.OnlyTheseStepsChangeEachFlag := by
  intro s t h
  obtain ⟨-, rfl⟩ | ⟨act, hf, rfl⟩ | ⟨x, y, hf, rfl⟩ := step_next_cases h
  · simp
  · obtain ⟨hd, hc, ha, hb, ⟨hn, hv, hz⟩, -⟩ := run_changes act s.advance
    rw [hf]
    refine ⟨fun hne => ?_, fun hne => .inl ?_, fun hne => ?_, fun hne => .inl ?_, fun hne => ?_⟩
    · rw [← hd.resolve_left hne]
    · rw [← hc.resolve_left hne]
    · rcases hne with hne | hne | hne
      · exact absurd hn hne
      · exact absurd hv hne
      · exact absurd hz hne
    · rw [← ha.resolve_left hne]
    · rw [← hb.resolve_left hne]
  · exact ⟨fun hne => absurd rfl hne, fun _ => .inr ⟨x, y, hf⟩, fun _ => ⟨x, y, hf⟩, fun _ => .inr ⟨x, y, hf⟩,
      fun hne => absurd rfl hne⟩

/-- Settles O11: the frame of a write back. -/
theorem instructionsTouchNothingElse : Obligations.InstructionsTouchNothingElse :=
  fun i s => ⟨_, exec_eq i s, rfl, rfl, rfl, rfl, rfl, rfl⟩

/-! ### The step of each row -/

/-- Settles O7: each row is one action, run after the position has moved on. -/
theorem consumerActionsDoOnlyWhatTheySay : Obligations.ConsumerActionsDoOnlyWhatTheySay := by
  intro s
  refine ⟨fun _ => step_of_fetch_consumer, fun _ => step_of_fetch_consumer, fun _ => step_of_fetch_consumer,
    fun _ => step_of_fetch_consumer, step_of_fetch_consumer, step_of_fetch_consumer,
    fun f x k hf hflag => ?_, fun f x k hf hflag => ?_⟩
  · have htaken : s.advance.flag f = x := hflag
    rw [step_of_fetch_consumer hf, ConsumerAction.run, if_pos htaken]
    rfl
  · have hnot : ¬ s.advance.flag f = x := hflag
    rw [step_of_fetch_consumer hf, ConsumerAction.run, if_neg hnot]
    rfl

theorem fetch_eq_none {s : State} (h : s.pos = 0 ∨ s.program.length < s.pos) : s.fetch = none := by
  unfold State.fetch
  split
  · rfl
  · exact List.getElem?_eq_none (by omega)

/-- Settles O8: no step has the number `pos`, so nothing is fetched. -/
theorem haltedProgramStays : Obligations.HaltedProgramStays :=
  fun _ h => ⟨fetch_eq_none h, step_of_fetch_none (fetch_eq_none h)⟩

/-! ### The instruction of an evaluation step -/

theorem wellFormed_eq_true (i : Instr) : i.wellFormed = true := by cases i <;> rfl

/-- A step with an instruction's select bits issues it where the D flag is its bit d (log entry 9). -/
theorem step_of_fetch_instr {s : State} {i : Instr} (hf : s.fetch = some (.evaluate i.sel65c02 i.selSbc))
    (hd : s.d = i.decimal) : step s = exec i s.advance := by
  rw [step, hf]
  dsimp only
  rw [State.issue, hd, decodeCtrl_ctrlWord_fields]

/-- Settles O5: the control word's byte decodes to the instruction that the step issues. -/
theorem stepRunsTheDecodedInstruction : Obligations.StepRunsTheDecodedInstruction := by
  refine ⟨fun s x y i hf hdecode => ⟨wellFormed_eq_true i, ?_⟩, fun s i => step_of_fetch_instr⟩
  rw [decode_setWidth_cons] at hdecode
  cases hdecode
  rw [step, hf]
  rfl

theorem withFetchWord_of_decodeTableWord {nbits w : Nat} {i : Instr} (h : decodeTableWord nbits w = some i)
    (s : State) : s.withFetchWord nbits w = s.placeInstr i := by
  rw [State.withFetchWord, h]

theorem fetch_placeInstr (s : State) (i : Instr) :
    (s.placeInstr i).fetch = some (.evaluate i.sel65c02 i.selSbc) :=
  fetch_placeStep s (.evaluate i.sel65c02 i.selSbc)

/-- Settles O6: the placed step has the instruction's select bits, and D is set to its bit d. -/
theorem placedWordRunsNext : Obligations.PlacedWordRunsNext := by
  intro s nbits w i h
  rw [withFetchWord_of_decodeTableWord h]
  exact ⟨step_of_fetch_instr (fetch_placeInstr s i) rfl, ⟨rfl, rfl, rfl, rfl, rfl, rfl, rfl, rfl⟩, rfl⟩

end Sys2Proof.Machine
end

section
/-! PROOFS. Invariants: what reset leaves, and the two invariants that every step keeps: the position stays inside the
program, and a decimal program's data stays valid BCD. -/

namespace Sys2Proof.Machine

/-- Settles O1: each field of the reset state is written out in its definition. -/
theorem resetHoldsTheChosenValues : Obligations.ResetHoldsTheChosenValues :=
  ⟨rfl, ⟨rfl, rfl, rfl, rfl⟩, ⟨rfl, rfl, rfl, rfl, rfl⟩, ⟨rfl, rfl⟩, fun _ => ⟨rfl, rfl, rfl, rfl, rfl, rfl⟩⟩

/-! ### The position -/

/-- After an action the position is where it was, or the target of a goto. -/
theorem run_pos (act : ConsumerAction) (s : State) :
    (act.run s).pos = s.pos ∨ ∃ f x, act = .gotoIf f x (act.run s).pos := by
  cases act with
  | gotoIf f x k =>
    rw [ConsumerAction.run]
    split
    · exact .inr ⟨f, x, rfl⟩
    · exact .inl rfl
  | saveA t => exact .inl (s.saveA_pos t)
  | _ => exact .inl rfl

theorem targetOk_gotoIf {len k : Nat} {f : FlagName} {x : Bool} :
    ProgStep.targetOk len (.consumer (.gotoIf f x k)) = true ↔ 1 ≤ k ∧ k ≤ len + 1 := by
  rw [ProgStep.targetOk, Bool.and_eq_true, decide_eq_true_eq, decide_eq_true_eq]

/-- A step that is fetched goes to the next number, which is at most one past the end, or to the target of its goto. -/
theorem step_pos_inside {s t : State} (hinv : s.Inv) (h : step s = .next t) :
    1 ≤ t.pos ∧ t.pos ≤ s.program.length + 1 := by
  obtain ⟨-, rfl⟩ | ⟨act, hf, rfl⟩ | ⟨x, y, hf, rfl⟩ := step_next_cases h
  · exact ⟨hinv.started, hinv.inside⟩
  · obtain ⟨hmem, -, hlast⟩ := fetch_some hf
    obtain hpos | ⟨f, x, hgoto⟩ := run_pos act s.advance
    · rw [hpos, State.advance_pos]
      omega
    · have htarget := List.all_eq_true.1 hinv.targets _ hmem
      rw [hgoto] at htarget
      exact targetOk_gotoIf.1 htarget
  · obtain ⟨-, -, hlast⟩ := fetch_some hf
    rw [State.writeBack_pos, State.advance_pos]
    omega

/-- Settles O42: the program, and with it every target, stays, and the position stays inside it. -/
theorem stepKeepsPositionInProgram : Obligations.StepKeepsPositionInProgram := by
  intro s t hinv h
  have hprogram := noStepChangesTheProgram s t h
  obtain ⟨hstarted, hinside⟩ := step_pos_inside hinv h
  exact ⟨hprogram ▸ hinv.targets, hstarted, hprogram ▸ hinside⟩

/-- Settles O43: the empty program has no goto, and step 1 is just past its end. -/
theorem resetPositionInProgram : Obligations.ResetPositionInProgram := by
  have hreset (p : ConsumerResetFlags) : (State.resetWith p).Inv := ⟨rfl, Nat.le_refl 1, Nat.le_refl 1⟩
  exact ⟨hreset _, hreset⟩

/-! ### Decimal data -/

/-- On valid BCD every operation of the core in decimal mode gives valid BCD (R131). -/
theorem alu_valid {x : Input} (hd : x.d = true) (ha : validBcd x.a = true) (hb : validBcd x.b = true) :
    validBcd (alu x).r = true := by
  obtain ⟨a, b, cIn, d, selSbc, sel65c02⟩ := x
  obtain rfl : d = true := hd
  match sel65c02, selSbc with
  | false, false => exact rDecAdd_valid cIn ha hb
  | true, false => exact rDecAdd_valid cIn ha hb
  | false, true => exact rDecSub6502_valid cIn ha hb
  | true, true => exact (congrArg validBcd (rDecSub65C02_eq_of_valid cIn hb)).trans (rDecSub6502_valid cIn ha hb)

theorem validBcd_zero : validBcd 0 = true := by decide

/-- A decimal program's action puts valid BCD where it assigns, or copies A, which is valid. -/
theorem run_keeps_decimalInv {act : ConsumerAction} {s : State} (hact : ProgStep.keepsDecimal (.consumer act) = true)
    (h : s.DecimalInv) : (act.run s).DecimalInv := by
  cases act with
  | setA x => exact { h with accumulator := hact }
  | setB x => exact { h with operand := hact }
  | setC x => exact { h with }
  | setD x => exact { h with decimal := hact }
  | saveA t =>
    cases t with
    | t0 => exact { h with scratch0 := h.accumulator }
    | t1 => exact { h with scratch1 := h.accumulator }
  | gotoIf f x k =>
    rw [ConsumerAction.run]
    split
    · exact { h with }
    · exact h

/-- Settles O44: an action of such a program loads valid BCD and leaves D set, and an evaluation's result is valid. -/
theorem stepKeepsDecimalDataValid : Obligations.StepKeepsDecimalDataValid := by
  intro s t hinv h
  obtain ⟨-, rfl⟩ | ⟨act, hf, rfl⟩ | ⟨x, y, -, rfl⟩ := step_next_cases h
  · exact hinv
  · obtain ⟨hmem, -, -⟩ := fetch_some hf
    exact run_keeps_decimalInv (List.all_eq_true.1 hinv.program _ hmem) { hinv with }
  · exact { hinv with accumulator := alu_valid hinv.decimal hinv.accumulator hinv.operand }

/-- Settles O45: the bytes that reset makes zero are valid BCD, and the empty program loads nothing. -/
theorem decimalResetIsValid : Obligations.DecimalResetIsValid :=
  fun _ hd ha => ⟨hd, ha, validBcd_zero, validBcd_zero, validBcd_zero, rfl⟩

end Sys2Proof.Machine
end

section
/-! PROOFS. Variants: decimal addition is commutative (R181, corner cases), and what the two variants always share
(R160). -/

namespace Sys2Proof.Machine

section
variable (cIn : Bool) (a b : Byte)

theorem addLo0_comm : addLo0 cIn a b = addLo0 cIn b a := by
  rw [addLo0, addLo0, Int.add_comm (loNibble a)]

theorem addHi0_comm : addHi0 cIn a b = addHi0 cIn b a := by
  rw [addHi0, addHi0, Int.add_comm (hiNibble a), addClo, addClo, addLo0_comm cIn a b]

theorem rDecAdd_comm : rDecAdd cIn a b = rDecAdd cIn b a := by
  rw [rDecAdd, rDecAdd, addHi_congr (addHi0_comm cIn a b), addLo_congr (addLo0_comm cIn a b)]

theorem cDecAdd_comm : cDecAdd cIn a b = cDecAdd cIn b a := addChi_congr (addHi0_comm cIn a b)

theorem rBinAdd_comm : rBinAdd cIn a b = rBinAdd cIn b a := by
  rw [rBinAdd, rBinAdd, binSum_comm cIn a b]

theorem addDecimal6502_comm : addDecimal6502 cIn a b = addDecimal6502 cIn b a := by
  simp only [addDecimal6502, flagsDecAdd6502, rDecAdd_comm cIn a b, cDecAdd_comm cIn a b, rBinAdd_comm cIn a b,
    addHi0_comm cIn a b, overflowAdd_comm (signBit a)]

theorem addDecimal65C02_comm : addDecimal65C02 cIn a b = addDecimal65C02 cIn b a := by
  simp only [addDecimal65C02, flagsDecAdd65C02, rDecAdd_comm cIn a b, cDecAdd_comm cIn a b, addHi0_comm cIn a b,
    overflowAdd_comm (signBit a)]

end

/-- Settles O27: both lanes' raw sums are symmetric in A and the operand, and so is each signal made of them. -/
theorem decimalAddCommutes : Obligations.DecimalAddCommutes := by
  intro i hi s
  rcases hi with rfl | rfl
  · refine ⟨_, _, exec_adc6502 true s, exec_adc6502 true _, ?_⟩
    rw [adc6502_true, adc6502_true, addDecimal6502_comm]
    exact ⟨rfl, rfl, rfl, rfl, rfl⟩
  · refine ⟨_, _, exec_adc65C02 true s, exec_adc65C02 true _, ?_⟩
    rw [adc65C02_true, adc65C02_true, addDecimal65C02_comm]
    exact ⟨rfl, rfl, rfl, rfl, rfl⟩

/-- V of the 65C02's decimal subtraction reads a bit that is the sign of the binary difference, V of the 6502's that
sign. -/
theorem overflowSub_hb3 (sa sb cIn : Bool) (a b : Byte) :
    overflowSub sa sb (signBit (rBinSub cIn a b)) = overflowSub sa sb (sub65C02Hb3 cIn a b) := by
  rw [sub65C02Hb3_eq_signBit]

/-- Settles O35: in binary mode there is one engine; in decimal mode the additions share their lanes, and the
subtractions their borrow and the bit that V reads. -/
theorem variantsShareOverflowAndCarry : Obligations.VariantsShareOverflowAndCarry := by
  intro s d
  refine ⟨⟨_, _, exec_adc6502 d s, exec_adc65C02 d s, ?_⟩, ⟨_, _, exec_sbc6502 d s, exec_sbc65C02 d s, ?_⟩⟩
  · cases d with
    | false => exact ⟨rfl, rfl, rfl⟩
    | true => exact ⟨rfl, rfl, rfl⟩
  · cases d with
    | false => exact ⟨rfl, rfl⟩
    | true => exact ⟨overflowSub_hb3 _ _ _ _ _, rfl⟩

end Sys2Proof.Machine
end

section
/-! PROOFS. Chains: one induction over the links of a chain (R43), for any digit, base and direction, and the four
chains of the statements. -/

namespace Sys2Proof.Machine

/-- The number of some bytes, the least significant first, each a digit of the given base. -/
def positional (digit : Byte → Int) (base : Int) : List Byte → Int
  | [] => 0
  | x :: xs => digit x + base * positional digit base xs

theorem binValue_eq_positional (xs : List Byte) : binValue xs = positional zext 256 xs := by
  induction xs with
  | nil => rfl
  | cons x xs ih => rw [binValue, positional, ih]

theorem decValue_eq_positional (xs : List Byte) : decValue xs = positional dec 100 xs := by
  induction xs with
  | nil => rfl
  | cons x xs ih => rw [decValue, positional, ih]

/-- One evaluation as one digit of long addition (`sign` 1, `carry` the carry) or long subtraction (`sign` −1, `carry`
the borrow), on bytes that satisfy `ok`. -/
def LinkLaw (ok : Byte → Prop) (digit : Byte → Int) (base sign : Int) (carry : Bool → Int) (i : Instr) : Prop :=
  ∀ s : State, ok s.a → ok s.b → ∃ t, exec i s = .next t ∧ ok t.a ∧
    digit t.a + sign * (base * carry t.c) = digit s.a + sign * (digit s.b + carry s.c)

/-- The carry of each link is the next one's, and weighs one digit more. -/
theorem chainRun_positional {ok : Byte → Prop} {digit : Byte → Int} {base sign : Int} {carry : Bool → Int} {i : Instr}
    (link : LinkLaw ok digit base sign carry i) (s : State) (pairs : List (Byte × Byte))
    (hok : ∀ p ∈ pairs, ok p.1 ∧ ok p.2) :
    ∃ rs t, chainRun i s pairs = some (rs, t) ∧ rs.length = pairs.length ∧ (∀ r ∈ rs, ok r) ∧
      positional digit base rs + sign * (base ^ pairs.length * carry t.c) =
        positional digit base (pairs.map Prod.fst) +
          sign * (positional digit base (pairs.map Prod.snd) + carry s.c) := by
  induction pairs generalizing s with
  | nil => exact ⟨[], s, chainRun_nil i s, rfl, by simp, by simp [positional]⟩
  | cons p rest ih =>
    obtain ⟨x, y⟩ := p
    obtain ⟨⟨hx, hy⟩, hrest⟩ := List.forall_mem_cons.1 hok
    obtain ⟨t, hexec, ht, hdigit⟩ := link ((s.setA x).setB y) hx hy
    obtain ⟨rs, u, hrun, hlength, hrs, hvalue⟩ := ih t hrest
    refine ⟨t.a :: rs, u, chainRun_cons hexec hrun, congrArg Nat.succ hlength, List.forall_mem_cons.2 ⟨ht, hrs⟩, ?_⟩
    simp only [List.map_cons, List.length_cons, positional, pow_succ, State.setA_c, State.setB_c, State.setB_a,
      State.setB_b, State.setA_a] at hdigit ⊢
    linear_combination base * hvalue + hdigit

/-! ### The four links -/

section
variable (cIn : Bool) (a b : Byte)

theorem zext_rBinAdd_add_carry :
    zext (rBinAdd cIn a b) + 256 * bitVal (cBinAdd cIn a b) = zext a + zext b + bitVal cIn := by
  have ha := zext_bounds a
  have hb := zext_bounds b
  have hc := bitVal_bounds cIn
  rw [zext_rBinAdd, cBinAdd, bitVal_decide, binSum]
  omega

theorem zext_rBinSub_sub_borrow :
    zext (rBinSub cIn a b) - 256 * borrowIn (cBinSub cIn a b) = zext a - zext b - borrowIn cIn := by
  have ha := zext_bounds a
  have hb := zext_bounds b
  have hc := borrowIn_bounds cIn
  rw [zext_rBinSub, cBinSub, borrowIn.eq_def (decide _), bitVal_decide]
  omega

end

/-- A link of a chain of additions. -/
theorem LinkLaw.of_add {ok : Byte → Prop} {digit : Byte → Int} {base : Int} {carry : Bool → Int} {i : Instr}
    (h : ∀ s : State, ok s.a → ok s.b → ∃ t, exec i s = .next t ∧ ok t.a ∧
      digit t.a + base * carry t.c = digit s.a + digit s.b + carry s.c) : LinkLaw ok digit base 1 carry i := by
  intro s ha hb
  obtain ⟨t, hexec, ht, hdigit⟩ := h s ha hb
  exact ⟨t, hexec, ht, by linear_combination hdigit⟩

/-- A link of a chain of subtractions. -/
theorem LinkLaw.of_sub {ok : Byte → Prop} {digit : Byte → Int} {base : Int} {carry : Bool → Int} {i : Instr}
    (h : ∀ s : State, ok s.a → ok s.b → ∃ t, exec i s = .next t ∧ ok t.a ∧
      digit t.a - base * carry t.c = digit s.a - digit s.b - carry s.c) : LinkLaw ok digit base (-1) carry i := by
  intro s ha hb
  obtain ⟨t, hexec, ht, hdigit⟩ := h s ha hb
  exact ⟨t, hexec, ht, by linear_combination hdigit⟩

theorem linkLaw_binary_adc {i : Instr} (hi : i = .adc6502 false ∨ i = .adc65C02 false) :
    LinkLaw (fun _ => True) zext 256 1 bitVal i :=
  .of_add fun s _ _ => ⟨_, exec_binary_adc hi s, trivial, zext_rBinAdd_add_carry s.c s.a s.b⟩

theorem linkLaw_binary_sbc {i : Instr} (hi : i = .sbc6502 false ∨ i = .sbc65C02 false) :
    LinkLaw (fun _ => True) zext 256 (-1) borrowIn i :=
  .of_sub fun s _ _ => ⟨_, exec_binary_sbc hi s, trivial, zext_rBinSub_sub_borrow s.c s.a s.b⟩

theorem linkLaw_decimal_adc {i : Instr} (hi : i = .adc6502 true ∨ i = .adc65C02 true) :
    LinkLaw (fun x => validBcd x = true) dec 100 1 bitVal i := by
  refine .of_add fun s ha hb => ?_
  obtain ⟨⟨t, u, ht, hu, hacc, hcarry, hvalid, hvalue⟩, -⟩ := validBcdIsDecimalArithmetic s ha hb
  simp only [← bitVal_eq_toNat] at hvalue
  rcases hi with rfl | rfl
  · exact ⟨t, ht, hvalid, hvalue⟩
  · exact ⟨u, hu, hacc ▸ hvalid, hacc ▸ hcarry ▸ hvalue⟩

theorem linkLaw_decimal_sbc {i : Instr} (hi : i = .sbc6502 true ∨ i = .sbc65C02 true) :
    LinkLaw (fun x => validBcd x = true) dec 100 (-1) borrowIn i := by
  refine .of_sub fun s ha hb => ?_
  obtain ⟨-, t, u, ht, hu, hacc, hcarry, hvalid, hvalue⟩ := validBcdIsDecimalArithmetic s ha hb
  simp only [← borrowIn_eq] at hvalue
  rcases hi with rfl | rfl
  · exact ⟨t, ht, hvalid, hvalue⟩
  · exact ⟨u, hu, hacc ▸ hvalid, hacc ▸ hcarry ▸ hvalue⟩

/-! ### The statements -/

/-- Settles O46: the chain of the adder's links. -/
theorem chainedBinaryAddIsMultiByteAdd : Obligations.ChainedBinaryAddIsMultiByteAdd := by
  intro i hi s pairs
  obtain ⟨rs, t, hrun, hlength, -, hvalue⟩ :=
    chainRun_positional (linkLaw_binary_adc hi) s pairs fun _ _ => ⟨trivial, trivial⟩
  refine ⟨rs, t, hrun, hlength, ?_⟩
  simp only [binValue_eq_positional]
  linear_combination hvalue

/-- Settles O47: the chain of the subtractor's links. -/
theorem chainedBinarySubIsMultiByteSub : Obligations.ChainedBinarySubIsMultiByteSub := by
  intro i hi s pairs
  obtain ⟨rs, t, hrun, hlength, -, hvalue⟩ :=
    chainRun_positional (linkLaw_binary_sbc hi) s pairs fun _ _ => ⟨trivial, trivial⟩
  refine ⟨rs, t, hrun, hlength, ?_⟩
  simp only [binValue_eq_positional, ← borrowIn.eq_def]
  linear_combination hvalue

/-- Settles O48: the chain of the decimal additions, whose results are digits again. -/
theorem chainedDecimalAddIsMultiDigitAdd : Obligations.ChainedDecimalAddIsMultiDigitAdd := by
  intro i hi s pairs hpairs
  obtain ⟨rs, t, hrun, hlength, hvalid, hvalue⟩ := chainRun_positional (linkLaw_decimal_adc hi) s pairs hpairs
  refine ⟨rs, t, hrun, hlength, hvalid, ?_⟩
  simp only [decValue_eq_positional]
  linear_combination hvalue

/-- Settles O49: the chain of the decimal subtractions, whose results are digits again. -/
theorem chainedDecimalSubIsMultiDigitSub : Obligations.ChainedDecimalSubIsMultiDigitSub := by
  intro i hi s pairs hpairs
  obtain ⟨rs, t, hrun, hlength, hvalid, hvalue⟩ := chainRun_positional (linkLaw_decimal_sbc hi) s pairs hpairs
  refine ⟨rs, t, hrun, hlength, hvalid, ?_⟩
  simp only [decValue_eq_positional, ← borrowIn.eq_def]
  linear_combination hvalue

end Sys2Proof.Machine
end

section
/-! PROOFS. ReferenceFunction: the core against the consolidated reference function of 43_alu_operations.md section 4,
whose every intermediate value is a signal of the model. -/

namespace Sys2Proof.Machine

theorem toNat_decide (p : Prop) [Decidable p] : (decide p).toNat = if p then 1 else 0 := by
  by_cases h : p <;> simp [h]

theorem toNat_beq_zero (x : Byte) : (x.toNat == 0) = (x == 0) := by
  rw [beq_zero_eq_toNat]
  rfl

theorem toNat_zext (x : Byte) : (zext x).toNat = x.toNat := rfl

section
variable (cIn : Bool) (a b : Byte)

/-- Read from the innermost value outwards, the values of the addition half are the adder's result and the lanes of
decimal addition. -/
theorem referenceAdd_eq (sel65c02 d : Bool) :
    referenceAdd sel65c02 d cIn a b = if sel65c02 then adc65C02 d cIn a b else adc6502 d cIn a b := by
  have hcarry : (if cIn = true then 1 else 0) = cIn.toNat := by cases cIn <;> rfl
  simp only [referenceAdd, hcarry, toNat_decide, decide_eq_true_eq, ← addLo0Nat.eq_def, ← addHi0Nat.eq_def,
    ← addCorrect.eq_def, ← toNat_rDecAdd, ← toNat_rBinAdd, ← cBinAdd_eq_toNat, BitVec.ofNat_toNat, BitVec.setWidth_eq,
    toNat_beq_zero]
  simp only [← addChi_eq_addHi0Nat, ← intBit_three_addHi0]
  cases sel65c02 <;> cases d <;> rfl

theorem toNat_binDiff_mod : ((zext a - zext b - borrowIn cIn) % 256).toNat = (rBinSub cIn a b).toNat := by
  rw [← zext_rBinSub, toNat_zext]

theorem cBinSub_eq_nonneg : cBinSub cIn a b = decide (0 ≤ zext a - zext b - borrowIn cIn) := by
  rw [cBinSub, decide_eq_decide]
  omega

/-- Read from the innermost value outwards, the values of the subtraction half are the subtractor's result and the lanes
of the two decimal subtractions. -/
theorem referenceSub_eq (sel65c02 d : Bool) :
    referenceSub sel65c02 d cIn a b = if sel65c02 then sbc65C02 d cIn a b else sbc6502 d cIn a b := by
  have hborrow : (if cIn = true then 0 else 1) = borrowIn cIn := by cases cIn <;> rfl
  simp only [referenceSub, hborrow, decide_eq_true_eq, ← loNibble_eq_toNat, ← hiNibble_eq_toNat, ← zext.eq_def,
    ← subLo0.eq_def, ← subHi0_eq, ← sub6502Lo_eq, ← sub6502Hi_eq, ← sub65C02Lo1_eq, ← sub65C02Hi1_eq,
    ← bitVal_sub65C02Lsn, ← sub65C02Hi.eq_def, ← sub65C02Lo.eq_def, ← zext_rDecSub6502, ← zext_rDecSub65C02,
    toNat_binDiff_mod, ← cBinSub_eq_nonneg, toNat_zext, BitVec.ofNat_toNat, BitVec.setWidth_eq, toNat_beq_zero]
  cases sel65c02 <;> cases d <;> rfl

end

/-- Settles O39: the select bit picks the half, and each half is its variant's operation. -/
theorem coreIsTheReferenceFunction : Obligations.CoreIsTheReferenceFunction := by
  rintro ⟨a, b, cIn, d, selSbc, sel65c02⟩
  cases selSbc with
  | false =>
    rw [referenceCore, if_pos rfl, referenceAdd_eq]
    cases sel65c02 <;> rfl
  | true =>
    rw [referenceCore, if_neg Bool.noConfusion, referenceSub_eq]
    cases sel65c02 <;> rfl

end Sys2Proof.Machine
end

section
/-! PROOFS. IndependentAlgorithm: the decimal operations against the algorithm of 93_implementation_defined.md G4, which
keeps the high nibble in bits 7..4 and its carries and borrows in the bits above. -/

namespace Sys2Proof.Machine

/-! ### Masked nibbles -/

section
variable (x : Byte)

theorem loMask_eq : ((x &&& 0x0F#8).toNat : Int) = loNibble x := by
  rw [loNibble_eq_toNat, BitVec.toNat_and]
  exact congrArg Nat.cast (Nat.and_two_pow_sub_one_eq_mod x.toNat 4)

theorem hiMask_eq : ((x &&& 0xF0#8).toNat : Int) = 16 * hiNibble x := by
  have hhi : hiNibble (x &&& 0xF0#8) = hiNibble x := by
    rw [hiNibble, hiNibble, BitVec.extractLsb'_and, show BitVec.extractLsb' 4 4 0xF0#8 = BitVec.allOnes 4 by decide,
      BitVec.and_allOnes]
  have hlo : loNibble (x &&& 0xF0#8) = 0 := by
    rw [loNibble, BitVec.extractLsb'_and, show BitVec.extractLsb' 0 4 0xF0#8 = 0#4 by decide, BitVec.and_zero]
    rfl
  have h := zext_eq_nibbles (x &&& 0xF0#8)
  rwa [hhi, hlo, Int.add_zero] at h

theorem signedHigh_eq : signedHigh x = 16 * hiNibble x - (if 8 ≤ hiNibble x then 256 else 0) := by
  have h : signedHigh x = sext (x &&& 0xF0#8) := rfl
  have hz : zext (x &&& 0xF0#8) = 16 * hiNibble x := hiMask_eq x
  rw [h, sext_eq, hz]
  omega

end

section
variable (cIn : Bool) (a b : Byte)

/-! ### Addition -/

theorem tutorialAddAL_eq : tutorialAddAL cIn a b = addLo cIn a b + 16 * bitVal (addClo cIn a b) := by
  have hraw := addLo0_bounds cIn a b
  rw [tutorialAddAL, loMask_eq, loMask_eq, ← addLo0.eq_def, addLo, addClo, bitVal_decide]
  simp only [decide_eq_true_eq]
  omega

theorem tutorialAddS_raw :
    16 * hiNibble a + 16 * hiNibble b + tutorialAddAL cIn a b = 16 * addHi0 cIn a b + addLo cIn a b := by
  rw [tutorialAddAL_eq, addHi0]
  omega

theorem tutorialAddS_eq :
    tutorialAddS cIn a b = 16 * (addHi0 cIn a b + if addChi cIn a b then 6 else 0) + addLo cIn a b := by
  have hlo := addLo_bounds cIn a b
  rw [tutorialAddS, hiMask_eq, hiMask_eq, tutorialAddS_raw, addChi]
  simp only [decide_eq_true_eq]
  omega

theorem mod256_tutorialAddS : mod256 (tutorialAddS cIn a b) = rDecAdd cIn a b := by
  have hraw := addHi0_bounds cIn a b
  rw [tutorialAddS_eq, rDecAdd, joinNibbles, ← mod256, mod256_eq_iff, addHi]
  split <;> omega

theorem tutorialAddS_carry : decide (0x100 ≤ tutorialAddS cIn a b) = cDecAdd cIn a b := by
  have hraw := addHi0_bounds cIn a b
  have hlo := addLo_bounds cIn a b
  rw [tutorialAddS_eq, cDecAdd, addChi, decide_eq_decide]
  simp only [decide_eq_true_eq]
  omega

theorem tutorialAddSigned_eq :
    tutorialAddSigned cIn a b = 16 * addHi0 cIn a b + addLo cIn a b
      - (if 8 ≤ hiNibble a then 256 else 0) - (if 8 ≤ hiNibble b then 256 else 0) := by
  rw [tutorialAddSigned, signedHigh_eq, signedHigh_eq, ← tutorialAddS_raw]
  omega

theorem intBit_seven (x : Int) : intBit 7 x = decide (128 ≤ x % 256) := rfl

theorem intBit_seven_tutorialAddSigned : intBit 7 (tutorialAddSigned cIn a b) = intBit 3 (addHi0 cIn a b) := by
  have hlo := addLo_bounds cIn a b
  rw [tutorialAddSigned_eq, intBit_seven, intBit_three, decide_eq_decide]
  omega

/-- Leaving −128..127 is having another sign than both operands. -/
theorem tutorialAddSigned_overflow :
    decide (tutorialAddSigned cIn a b < -128 ∨ 127 < tutorialAddSigned cIn a b) =
      overflowAdd (signBit a) (signBit b) (intBit 3 (addHi0 cIn a b)) := by
  have ha := hiNibble_bounds a
  have hb := hiNibble_bounds b
  have hclo := bitVal_bounds (addClo cIn a b)
  have hlo := addLo_bounds cIn a b
  rw [Bool.eq_iff_iff, overflowAdd_iff, decide_eq_true_eq, signBit_eq_hiNibble, signBit_eq_hiNibble, intBit_three,
    ne_eq, ne_eq, decide_eq_decide, decide_eq_decide, tutorialAddSigned_eq, addHi0]
  omega

theorem tutorialAdd_eq (sel65c02 : Bool) :
    tutorialAdd sel65c02 cIn a b = if sel65c02 then addDecimal65C02 cIn a b else addDecimal6502 cIn a b := by
  simp only [tutorialAdd, mod256_tutorialAddS, tutorialAddS_carry, intBit_seven_tutorialAddSigned,
    tutorialAddSigned_overflow]
  rfl

/-! ### Subtraction -/

theorem tutorialSubAL_eq : tutorialSubAL cIn a b = subLo0 cIn a b := by
  rw [tutorialSubAL, loMask_eq, loMask_eq, subLo0, borrowIn]
  omega

/-- With the nibbles apart, both borrows and their corrections are those of the lanes. -/
theorem tutorialSub6502_eq : tutorialSub6502 cIn a b = rDecSub6502 cIn a b := by
  have hlo := subLo0_bounds cIn a b
  have hhi := subHi0_bounds cIn a b
  have hhi0 := subHi0_eq cIn a b
  rw [rDecSub6502, joinNibbles, ← mod256, tutorialSub6502, mod256_eq_iff, hiMask_eq, hiMask_eq, tutorialSubAL_eq,
    sub6502Hi_eq, sub6502Lo_eq]
  omega

theorem tutorialSub_diff : (a.toNat : Int) - b.toNat + bitVal cIn - 1 = binDiff cIn a b := by
  rw [binDiff, borrowIn, zext, zext]
  omega

/-- The binary difference is negative when the high lane borrows, and subtracting 6 from all of it borrows from the high
nibble where the low lane is still negative. -/
theorem tutorialSub65C02_eq : tutorialSub65C02 cIn a b = rDecSub65C02 cIn a b := by
  have hlo := subLo0_bounds cIn a b
  have hhi := subHi0_bounds cIn a b
  have hhi0 := subHi0_eq cIn a b
  rw [rDecSub65C02, joinNibbles, ← mod256, tutorialSub65C02, mod256_eq_iff, tutorialSub_diff, tutorialSubAL_eq,
    binDiff_eq_nibbles, sub65C02Hi, bitVal_sub65C02Lsn, sub65C02Lo, sub65C02Hi1_eq, sub65C02Lo1_eq]
  omega

theorem tutorialSub_carry : decide (0 ≤ binDiff cIn a b) = !subBhi cIn a b := by
  rw [not_subBhi_eq_cBinSub, cBinSub_eq_nonneg, binDiff]

theorem tutorialSub_overflow :
    decide (a.toInt - b.toInt + bitVal cIn - 1 < -128 ∨ 127 < a.toInt - b.toInt + bitVal cIn - 1) =
      overflowSub (signBit a) (signBit b) (signBit (rBinSub cIn a b)) := by
  have hdiff : a.toInt - b.toInt + bitVal cIn - 1 = sext a - sext b - borrowIn cIn := by
    rw [borrowIn, sext, sext]
    omega
  rw [Bool.eq_iff_iff, decide_eq_true_eq, overflowSub_signBit_iff, hdiff]

theorem tutorialSub_eq (sel65c02 : Bool) :
    tutorialSub sel65c02 cIn a b = if sel65c02 then subDecimal65C02 cIn a b else subDecimal6502 cIn a b := by
  simp only [tutorialSub, tutorialSub_diff, tutorialSub_carry, tutorialSub_overflow, tutorialSub6502_eq,
    tutorialSub65C02_eq, subDecimal65C02, flagsDecSub65C02, sub65C02Hb3_eq_signBit]
  rfl

end

/-- Settles O40: each output of the algorithm is a signal of the operation. -/
theorem decimalModeIsTheIndependentAlgorithm : Obligations.DecimalModeIsTheIndependentAlgorithm := by
  intro s
  refine ⟨⟨_, _, exec_adc6502 true s, exec_adc65C02 true s, ?_⟩,
    ⟨_, _, exec_sbc6502 true s, exec_sbc65C02 true s, ?_⟩⟩
  · rw [tutorialAdd_eq, tutorialAdd_eq]
    exact ⟨rfl, rfl⟩
  · rw [tutorialSub_eq, tutorialSub_eq]
    exact ⟨rfl, rfl⟩

end Sys2Proof.Machine
end

section
/-! PROOFS. EvaluationText: each part of an evaluation's text reads back, whatever text follows it (R67, log entry
14). -/

namespace Sys2Proof.Machine

/-- A literal is read off where the text begins with it. -/
theorem takeLit_append (lit rest : List Char) : takeLit lit (lit ++ rest) = some rest := by
  induction lit with
  | nil => rfl
  | cons l ls ih => rw [List.cons_append, takeLit, if_pos rfl, ih]

theorem readBit_bitText_append (x : Bool) (rest : List Char) : readBit (bitText x ++ rest) = some (x, rest) := by
  cases x <;> rfl

theorem hexValue_hexDigit : ∀ k < 16, hexValue (hexDigit k) = some k := by decide

theorem readByte_byteText_append (x : Byte) (rest : List Char) : readByte (byteText x ++ rest) = some (x, rest) := by
  have hhi : x.toNat / 16 < 16 := by omega
  have hlo : x.toNat % 16 < 16 := by omega
  have hx : BitVec.ofNat 8 (16 * (x.toNat / 16) + x.toNat % 16) = x := by
    rw [Nat.div_add_mod, BitVec.ofNat_toNat, BitVec.setWidth_eq]
  simp only [byteText, List.cons_append, List.nil_append, readByte, if_true, hexValue_hexDigit _ hhi,
    hexValue_hexDigit _ hlo, hx]

theorem readMnemonic_mnemonicText_append (sel65c02 selSbc : Bool) (rest : List Char) :
    readMnemonic (mnemonicText sel65c02 selSbc ++ rest) = some ((sel65c02, selSbc), rest) := by
  cases sel65c02 <;> cases selSbc <;> rfl

/-- Settles O38: the parts are read in the order in which they were written. -/
theorem evaluationTextReadsBack : Obligations.EvaluationTextReadsBack := by
  intro x rest
  simp only [inputText, List.append_assoc, readInput, readMnemonic_mnemonicText_append, takeLit_append,
    readBit_bitText_append, readByte_byteText_append, Option.bind_eq_bind, Option.bind_some]

end Sys2Proof.Machine
end

section
/-! PROOFS. DivergenceCounts: at how many inputs the variants differ, by output (R160, counted). Each question is put as
pairs of a question of the low lane and one of the high lane, and those are counted lane by lane. -/

namespace Sys2Proof.Machine

/-! ### Counting over pairs of lanes -/

/-- A question of the low lane and one of the high lane. -/
abbrev Lanes := (Bool → Nat → Nat → Bool) × (Nat → Nat → Bool)

/-- Whether an input satisfies both questions of one of the pairs. -/
def inSomeLanes (ls : List Lanes) (cIn : Bool) (a b : Byte) : Bool := ls.any fun l => inLanes l.1 l.2 cIn a b

/-- How many inputs satisfy both questions of one of the pairs, if no input satisfies the low questions of two. -/
def countLanes (ls : List Lanes) : Nat := (ls.map fun l => countHighLane l.2 * countLowLane l.1).sum

/-- No input satisfies the low questions of two of the pairs. -/
def LowDisjoint (ls : List Lanes) : Prop := ∀ c x y, ls.Pairwise fun l l' => l.1 c x y = true → l'.1 c x y = false

theorem countInputs_inSomeLanes {ls : List Lanes} (h : LowDisjoint ls) :
    countInputs (inSomeLanes ls) = countLanes ls := by
  induction ls with
  | nil => exact countInputs_none fun _ _ _ => rfl
  | cons l ls ih =>
    have hhead (c : Bool) (x y : Nat) := (List.pairwise_cons.1 (h c x y)).1
    have htail : LowDisjoint ls := fun c x y => (List.pairwise_cons.1 (h c x y)).2
    have hcons (c : Bool) (a b : Byte) :
        inSomeLanes (l :: ls) c a b = (inLanes l.1 l.2 c a b || inSomeLanes ls c a b) := List.any_cons
    rw [countInputs_congr hcons, countInputs_or, countInputs_inLanes, ih htail, countLanes, countLanes, List.map_cons,
      List.sum_cons]
    intro c a b hl
    refine List.any_eq_false.2 fun l' hl' => ?_
    simp [inLanes, hhead _ _ _ l' hl' (Bool.and_elim_left hl)]

/-- The questions of a pair, asked of decimal digits only. -/
def validLanes (l : Lanes) : Lanes :=
  (fun c x y => decide (x ≤ 9 ∧ y ≤ 9) && l.1 c x y, fun x y => decide (x ≤ 9 ∧ y ≤ 9) && l.2 x y)

theorem validBcd_iff_toNat (x : Byte) : validBcd x = true ↔ x.toNat % 16 ≤ 9 ∧ x.toNat / 16 ≤ 9 := by
  rw [validBcd_iff, loNibble_eq_toNat, hiNibble_eq_toNat]
  omega

theorem inSomeLanes_validLanes (ls : List Lanes) (cIn : Bool) (a b : Byte) :
    inSomeLanes (ls.map validLanes) cIn a b = (validBcd a && validBcd b && inSomeLanes ls cIn a b) := by
  rw [Bool.eq_iff_iff, Bool.and_eq_true, Bool.and_eq_true, validBcd_iff_toNat, validBcd_iff_toNat]
  simp only [inSomeLanes, List.any_map, List.any_eq_true, Function.comp, inLanes, validLanes, Bool.and_eq_true,
    decide_eq_true_eq]
  constructor
  · rintro ⟨l, hl, ⟨⟨ha, hb⟩, hlow⟩, ⟨ha', hb'⟩, hhigh⟩
    exact ⟨⟨⟨ha, ha'⟩, hb, hb'⟩, l, hl, hlow, hhigh⟩
  · rintro ⟨⟨⟨ha, ha'⟩, hb, hb'⟩, l, hl, hlow, hhigh⟩
    exact ⟨l, hl, ⟨⟨ha, hb⟩, hlow⟩, ⟨ha', hb'⟩, hhigh⟩

theorem LowDisjoint.valid {ls : List Lanes} (h : LowDisjoint ls) : LowDisjoint (ls.map validLanes) := by
  refine fun c x y => List.pairwise_map.2 ((h c x y).imp fun hdisjoint hl => ?_)
  simp [validLanes, hdisjoint (Bool.and_elim_right hl)]

/-! ### The pairs of each question -/

/-- Where bit 3 of a raw sum of the high lane is not that of its correction. -/
def addSignDiffers (h : Nat) : Bool := decide (10 ≤ h ∧ h ≤ 15 ∨ 18 ≤ h ∧ h ≤ 23 ∨ 26 ≤ h)

/-- Addition, N: without and with a carry of the low lane. -/
def addSignLanes : List Lanes :=
  [(fun c x y => decide (x + y + c.toNat ≤ 9), fun x y => addSignDiffers (x + y)),
    (fun c x y => decide (9 < x + y + c.toNat), fun x y => addSignDiffers (x + y + 1))]

/-- Addition of valid BCD, N or Z: after a low sum of 0 or 16 the binary or the decimal result alone can be zero. -/
def addAnyLanes : List Lanes :=
  [(fun c x y => decide (x + y + c.toNat = 0), fun x y => addSignDiffers (x + y) || decide (x + y = 16)),
    (fun c x y => decide (x + y + c.toNat = 16), fun x y => addSignDiffers (x + y + 1) || decide (x + y = 15)),
    (fun c x y => decide (x + y + c.toNat ≤ 9 ∧ x + y + c.toNat ≠ 0), fun x y => addSignDiffers (x + y)),
    (fun c x y => decide (9 < x + y + c.toNat ∧ x + y + c.toNat ≠ 16), fun x y => addSignDiffers (x + y + 1))]

/-- Subtraction, N: without a borrow of the low lane, with one, and with one that leaves it still negative. -/
def subSignLanes : List Lanes :=
  [(fun c x y => decide (y + 1 ≤ x + c.toNat), fun x y => decide (x + 11 ≤ y ∨ x + 3 ≤ y ∧ y ≤ x + 8)),
    (fun c x y => decide (x + c.toNat ≤ y ∧ y ≤ x + c.toNat + 9),
      fun x y => decide (x + 10 ≤ y ∨ x + 2 ≤ y ∧ y ≤ x + 7)),
    (fun c x y => decide (x + c.toNat + 10 ≤ y),
      fun x y => decide (x = y + 1 ∨ x = y + 9 ∨ x + 1 ≤ y ∧ y ≤ x + 7 ∨ x + 9 ≤ y))]

/-- Subtraction of valid BCD, N or Z: after a low difference of −10 the decimal result alone can be zero. -/
def subAnyLanes : List Lanes :=
  [(fun c x y => decide (y + 1 ≤ x + c.toNat), fun x y => decide (x + 3 ≤ y ∧ y ≤ x + 8)),
    (fun c x y => decide (x + c.toNat ≤ y ∧ y ≠ x + c.toNat + 9), fun x y => decide (x + 2 ≤ y ∧ y ≤ x + 7)),
    (fun c x y => decide (y = x + c.toNat + 9), fun x y => decide (x + 2 ≤ y ∧ y ≤ x + 7 ∨ x = y + 1 ∨ x + 9 = y))]

theorem addSignLanes_disjoint : LowDisjoint addSignLanes := by
  intro c x y
  simp only [addSignLanes, List.pairwise_cons, List.forall_mem_cons, List.not_mem_nil, List.Pairwise.nil,
    decide_eq_true_eq, decide_eq_false_iff_not, false_imp_iff, implies_true, and_true]
  omega

theorem addAnyLanes_disjoint : LowDisjoint addAnyLanes := by
  intro c x y
  simp only [addAnyLanes, List.pairwise_cons, List.forall_mem_cons, List.not_mem_nil, List.Pairwise.nil,
    decide_eq_true_eq, decide_eq_false_iff_not, false_imp_iff, implies_true, and_true]
  omega

theorem subSignLanes_disjoint : LowDisjoint subSignLanes := by
  intro c x y
  simp only [subSignLanes, List.pairwise_cons, List.forall_mem_cons, List.not_mem_nil, List.Pairwise.nil,
    decide_eq_true_eq, decide_eq_false_iff_not, false_imp_iff, implies_true, and_true]
  omega

theorem subAnyLanes_disjoint : LowDisjoint subAnyLanes := by
  intro c x y
  simp only [subAnyLanes, List.pairwise_cons, List.forall_mem_cons, List.not_mem_nil, List.Pairwise.nil,
    decide_eq_true_eq, decide_eq_false_iff_not, false_imp_iff, implies_true, and_true]
  omega

theorem addSignLanes_count : countLanes addSignLanes = 83880 := by decide

theorem addAnyLanes_count : countLanes (addAnyLanes.map validLanes) = 8831 := by decide

theorem subSignLanes_count : countLanes subSignLanes = 44592 := by decide

theorem subAnyLanes_count : countLanes (subAnyLanes.map validLanes) = 6010 := by decide

/-! ### What differs, as pairs of lanes -/

/-- Outputs with one result, V and C differ in N or Z. -/
theorem outputOf_bne (r : Byte) {f g : Flags} (hv : f.v = g.v) (hc : f.c = g.c) :
    (outputOf r f != outputOf r g) = ((f.n != g.n) || (f.z != g.z)) := by
  rw [Bool.eq_iff_iff, bne_iff_ne, Bool.or_eq_true, bne_iff_ne, bne_iff_ne, ne_eq, outputOf, outputOf,
    Output.mk.injEq, hv, hc]
  tauto

section
variable (cIn : Bool) (a b : Byte)

theorem addSign_bne_eq_addSignDiffers :
    (intBit 3 (addHi0 cIn a b) != signBit (rDecAdd cIn a b)) = addSignDiffers (addHi0Nat cIn a b) := by
  have hraw := (addHi0_bounds cIn a b).2
  rw [addHi0_eq_addHi0Nat] at hraw
  rw [addHi0_eq_addHi0Nat, intBit_three, signBit_eq_hiNibble, rDecAdd_hi, addHi_eq_addCorrect, addSignDiffers,
    addCorrect, Bool.eq_iff_iff, bne_iff_ne, ne_eq, decide_eq_decide, decide_eq_true_eq]
  split <;> omega

theorem addSign_bne :
    (intBit 3 (addHi0 cIn a b) != signBit (rDecAdd cIn a b)) = inSomeLanes addSignLanes cIn a b := by
  rw [addSign_bne_eq_addSignDiffers, addHi0Nat, addLo0Nat, Bool.eq_iff_iff]
  simp only [inSomeLanes, addSignLanes, addSignDiffers, inLanes, List.any_cons, List.any_nil, Bool.or_eq_true,
    Bool.and_eq_true, decide_eq_true_eq, Bool.or_false]
  split <;> omega

theorem subSign_bne :
    (signBit (rBinSub cIn a b) != signBit (rDecSub65C02 cIn a b)) = inSomeLanes subSignLanes cIn a b := by
  have ha := a.isLt
  have hb := b.isLt
  have hc := cIn.toNat_le
  rw [← sub65C02Hb3_eq_signBit, sub65C02Hb3, intBit_three, signBit_eq_hiNibble, rDecSub65C02_hi, sub65C02Hi,
    bitVal_sub65C02Lsn, sub65C02Hi1_eq, sub65C02Lo1_eq, subHi0_eq, subLo0, loNibble_eq_toNat, loNibble_eq_toNat,
    hiNibble_eq_toNat, hiNibble_eq_toNat, borrowIn_eq, Bool.eq_iff_iff, bne_iff_ne, ne_eq, decide_eq_decide]
  simp only [inSomeLanes, subSignLanes, inLanes, List.any_cons, List.any_nil, Bool.or_eq_true, Bool.and_eq_true,
    decide_eq_true_eq, Bool.or_false]
  omega

/-- Where the two decimal differences are not one byte, the low nibble of both is 10 or more. -/
theorem rDecSub65C02_beq_zero : (rDecSub65C02 cIn a b == 0) = (rDecSub6502 cIn a b == 0) := by
  cases hlsn : sub65C02Lsn cIn a b with
  | false => rw [(rDecSub_eq_iff cIn a b).2 hlsn]
  | true =>
    have hdiff := (sub65C02Lsn_iff cIn a b).1 hlsn
    have hraw := subLo0_bounds cIn a b
    have hhi := sub6502Hi_bounds cIn a b
    have hhi' := sub65C02Hi_bounds cIn a b
    rw [beq_zero_eq, beq_zero_eq, decide_eq_decide, zext_rDecSub65C02, zext_rDecSub6502, sub65C02Lo_eq, sub6502Lo_eq]
    split <;> omega

theorem subZero_bne : ((rBinSub cIn a b == 0) != (rDecSub65C02 cIn a b == 0)) =
    ((rBinSub cIn a b == 0) != (rDecSub6502 cIn a b == 0)) := by
  rw [rDecSub65C02_beq_zero]

end

section
variable {a b : Byte} (cIn : Bool) (ha : validBcd a = true) (hb : validBcd b = true)
include ha hb

theorem addDecimal_bne_of_valid :
    (addDecimal6502 cIn a b != addDecimal65C02 cIn a b) = inSomeLanes addAnyLanes cIn a b := by
  obtain ⟨halo, hahi⟩ := (validBcd_iff_toNat a).1 ha
  obtain ⟨hblo, hbhi⟩ := (validBcd_iff_toNat b).1 hb
  have hc := cIn.toNat_le
  have hflags := outputOf_bne (rDecAdd cIn a b) (f := flagsDecAdd6502 cIn a b) (g := flagsDecAdd65C02 cIn a b) rfl rfl
  rw [addDecimal6502, addDecimal65C02, hflags, flagsDecAdd6502, flagsDecAdd65C02,
    addSign_bne_eq_addSignDiffers, rBinAdd_zero_bne_rDecAdd_zero, addHi0Nat, addLo0Nat, Bool.eq_iff_iff]
  simp only [inSomeLanes, addAnyLanes, addSignDiffers, inLanes, List.any_cons, List.any_nil, Bool.or_eq_true,
    Bool.and_eq_true, decide_eq_true_eq, Bool.or_false]
  generalize a.toNat % 16 = x, b.toNat % 16 = y, a.toNat / 16 = X, b.toNat / 16 = Y, cIn.toNat = c at *
  split <;> omega

theorem subDecimal_bne_of_valid :
    (subDecimal6502 cIn a b != subDecimal65C02 cIn a b) = inSomeLanes subAnyLanes cIn a b := by
  obtain ⟨halo, hahi⟩ := (validBcd_iff_toNat a).1 ha
  obtain ⟨hblo, hbhi⟩ := (validBcd_iff_toNat b).1 hb
  have hc := cIn.toNat_le
  have hflags := outputOf_bne (rDecSub6502 cIn a b) (f := flagsDecSub6502 cIn a b) (g := flagsDecSub65C02 cIn a b)
    (overflowSub_hb3 _ _ _ _ _) rfl
  rw [subDecimal6502, subDecimal65C02, rDecSub65C02_eq_of_valid cIn hb, hflags, flagsDecSub6502,
    flagsDecSub65C02, subSign_bne, subZero_bne, rBinSub_zero_bne_rDecSub6502_zero, Bool.eq_iff_iff]
  simp only [inSomeLanes, subAnyLanes, subSignLanes, inLanes, List.any_cons, List.any_nil, Bool.or_eq_true,
    Bool.and_eq_true, decide_eq_true_eq, Bool.or_false]
  generalize a.toNat % 16 = x, b.toNat % 16 = y, a.toNat / 16 = X, b.toNat / 16 = Y, cIn.toNat = c at *
  omega

end

/-! ### The counts -/

theorem countAll_adc_n_differ : countAll (fun d c a b => (adc6502 d c a b).n != (adc65C02 d c a b).n) = 83880 := by
  rw [countAll_of_decimal fun _ _ _ => bne_self_eq_false _, ← addSignLanes_count,
    ← countInputs_inSomeLanes addSignLanes_disjoint]
  exact countInputs_congr addSign_bne

theorem countAll_adc_z_differ : countAll (fun d c a b => (adc6502 d c a b).z != (adc65C02 d c a b).z) = 1039 :=
  (countAll_of_decimal fun _ _ _ => bne_self_eq_false _).trans countInputs_add_zero_differ

theorem countAll_sbc_n_differ : countAll (fun d c a b => (sbc6502 d c a b).n != (sbc65C02 d c a b).n) = 44592 := by
  rw [countAll_of_decimal fun _ _ _ => bne_self_eq_false _, ← subSignLanes_count,
    ← countInputs_inSomeLanes subSignLanes_disjoint]
  exact countInputs_congr subSign_bne

theorem countAll_sbc_z_differ : countAll (fun d c a b => (sbc6502 d c a b).z != (sbc65C02 d c a b).z) = 488 := by
  rw [countAll_of_decimal fun _ _ _ => bne_self_eq_false _, ← countInputs_sub_zero_differ]
  exact countInputs_congr subZero_bne

/-- Two operations that agree in binary mode, and in decimal mode differ on valid BCD where some pair of lanes says. -/
theorem countAll_valid_differ {f g : Bool → Bool → Byte → Byte → Output} {ls : List Lanes} (hdisjoint : LowDisjoint ls)
    (hbinary : f false = g false)
    (hdecimal : ∀ c a b, validBcd a = true → validBcd b = true →
      (f true c a b != g true c a b) = inSomeLanes ls c a b) :
    countAll (fun d c a b => validBcd a && validBcd b && (f d c a b != g d c a b)) =
      countLanes (ls.map validLanes) := by
  rw [countAll_of_decimal fun c a b => by rw [hbinary, bne_self_eq_false, Bool.and_false],
    ← countInputs_inSomeLanes hdisjoint.valid]
  refine countInputs_congr fun c a b => ?_
  rw [inSomeLanes_validLanes]
  cases ha : validBcd a <;> cases hb : validBcd b
  case true.true => rw [hdecimal c a b ha hb]
  all_goals rfl

theorem countAll_adc_valid_differ :
    countAll (fun d c a b => validBcd a && validBcd b && (adc6502 d c a b != adc65C02 d c a b)) = 8831 := by
  rw [← addAnyLanes_count]
  exact countAll_valid_differ addAnyLanes_disjoint rfl fun c _ _ => addDecimal_bne_of_valid c

theorem countAll_sbc_valid_differ :
    countAll (fun d c a b => validBcd a && validBcd b && (sbc6502 d c a b != sbc65C02 d c a b)) = 6010 := by
  rw [← subAnyLanes_count]
  exact countAll_valid_differ subAnyLanes_disjoint rfl fun c _ _ => subDecimal_bne_of_valid c

/-- Settles O36: the variants differ in decimal mode alone, and there the pairs of lanes are counted. -/
theorem variantDivergenceCounts : Obligations.VariantDivergenceCounts :=
  ⟨countAll_adc_n_differ, countAll_adc_z_differ, countAll_adc_valid_differ, countAll_sbc_results_differ,
    countAll_sbc_n_differ, countAll_sbc_z_differ, countAll_sbc_valid_differ⟩

end Sys2Proof.Machine
end
